-- ==== Sys2Proof/Word.lean ====
section
/-! DEFINITION. The word types of the VDF52 core and its fixed constants (00_scope.md rule R5). -/

namespace Sys2Proof

/-- A 64-bit word: a register on the host port, a round-key word, a command (R5 `WW`, R10). -/
abbrev Word := BitVec 64

/-- A 52-bit working value (R5 `FW`); it may be `≥ p`. -/
abbrev Field := BitVec 52

/-- A 128-bit cipher block (R5 `BLK`); byte `i` is bits `8i+7 .. 8i` (R44). -/
abbrev Block := BitVec 128

/-- A register number of the host port (R40): 7 bits. -/
abbrev RegNum := BitVec 7

/-- The bit pattern of an IEEE 754 binary64 number (R88). -/
abbrev Binary64 := BitVec 64

/-- `NK` of R5: the number of round-key words. -/
abbrev numKeys : Nat := 34

/-- `CH` holds four words (R18). -/
abbrev numChallengeWords : Nat := 4

/-- The round-key file `K[0..33]` (R19). -/
abbrev Keys := Vector Word 34

/-- The challenge file `CH[0..3]` (R18). -/
abbrev Challenge := Vector Word 4

end Sys2Proof
end

