-- ==== Sys2Proof/Machine/FieldArith.lean ====
section
/-! DEFINITION. The arithmetic functions of 40_field_arithmetic.md rules R80 to R85 and R115. Operands become
natural numbers, the result is computed exactly and narrowed once. -/

namespace Sys2Proof.Machine

/-- P from its stored half (R15): `0xFFFFF ‖ PLO`, that is `PHI | PLO`. -/
def modulus (plo : BitVec 32) : Field := 0xFFFFF#20 ++ plo

/-- `canon(v, p)` (R80): one conditional subtraction. -/
def canon (v p : Field) : Field := if p ≤ v then v - p else v

/-- `mulmod(a, b, p) = (a * b) mod p` (R81): the mathematical product and remainder. -/
def mulmod (a b p : Field) : Field := BitVec.ofNat 52 (a.toNat * b.toNat % p.toNat)

/-- `b ^ e mod m` for an exponent below `2 ^ fuel`, by repeated squaring. -/
def powMod (m : Nat) : (fuel : Nat) → (b e : Nat) → Nat
  | 0, _, _ => 1 % m
  | fuel + 1, b, e =>
    if e % 2 = 1 then b * powMod m fuel (b * b % m) (e / 2) % m
    else powMod m fuel (b * b % m) (e / 2)

/-- `modpow(a, e, p) = (a ^ e) mod p` (R82), `e` of 52 bits. -/
def modpow (a e p : Field) : Field := BitVec.ofNat 52 (powMod p.toNat 52 a.toNat e.toNat)

/-- `cube3(a, p)` (R83): square, then multiply by the original. -/
def cube3 (a p : Field) : Field := mulmod (mulmod a a p) a p

/-- `mod64(v, p) = v mod p` (R84). -/
def mod64 (v : Word) (p : Field) : Field := BitVec.ofNat 52 (v.toNat % p.toNat)

/-- `sub52(x, k) = (x - k) mod 2^52` (R85): only bits 51:0 of the key take part. -/
def sub52 (x : Field) (k : Word) : Field := x - k.setWidth 52

/-- `add52(x, k) = (x + k) mod 2^52` (R85). -/
def add52 (x : Field) (k : Word) : Field := x + k.setWidth 52

/-- The exponent `(2 * P - 1) div 3` (R115): floor, exact when `P mod 3 = 2`. -/
def exponentOf (p : Field) : Field := BitVec.ofNat 52 ((2 * p.toNat - 1) / 3)

end Sys2Proof.Machine
end

