-- ==== Sys2Proof/Config.lean ====
section
/-! DEFINITION. What the spec leaves to the implementation: the parameters of R6 and the source of the
free values. Each is an opaque constant without a body, so no proof can learn its value. -/

namespace Sys2Proof

/-- Which multiplier the block was built with (R6 `VARIANT`, R21). -/
inductive Variant where
  /-- the integer double-and-reduce multiplier (R86) -/
  | int
  /-- the FPU-assisted multiplier (R89) -/
  | fpu
deriving DecidableEq, Repr, Inhabited

namespace Config

/-- `VARIANT` (R6, I1): the build-time choice. DESIGN CHOICE (log entry 8), safe: nothing is known of it. -/
opaque variant : Variant

/-- `PRIME_TABLE` (R6, R47, I2): 1024 entries of 32 bits, none of them given by the spec. DESIGN CHOICE
(log entry 8), safe: nothing is known of it. -/
opaque primeTable : BitVec 10 → BitVec 32

/-- `ENC` (R6, R48, R49, I3): the external cipher as a total function of one block. DESIGN CHOICE (log
entry 8), safe: nothing is known of it. -/
opaque enc : Block → Block

/-- The free values: `draw i` is the `i`-th value drawn "under no law" (R32, R41, U1 to U4); a register of
width `w ≤ 128` takes its low `w` bits. DESIGN CHOICE (log entries 1, 2, 3). -/
opaque draw : Nat → BitVec 128

end Config

end Sys2Proof
end

