-- ==== Sys2Proof/Syntax.lean ====
section
/-! DEFINITION. The fourteen commands of the VDF52 core (30_encoding.md rule R63), one constructor per row of
the opcode table. -/

namespace Sys2Proof

/-- A command with its immediates (R61, R62). The commands name their registers implicitly (R20), so the only
operands are the round-key index `KI` and the prime-table index `TI`. -/
inductive Instr where
  /-- NOP, R160: no operation. -/
  | nop
  /-- MULMOD, R94: `R <- (A*B) mod P`. -/
  | mulmod
  /-- MODPOW, R95: `R <- A^E mod P`. -/
  | modpow
  /-- CUBE, R96: `R <- A^3 mod P`. -/
  | cube
  /-- FILLK, R112: `K[0..33] <- schedule(CH)`. -/
  | fillk
  /-- SELP, R113: `P <- PHI | TABLE(K[32] mod 1024)`; `E <- (2P-1) div 3`. -/
  | selp
  /-- LDP, R114: `P <- PHI | TABLE(TI)`; `E <- (2P-1) div 3`. -/
  | ldp (ti : BitVec 10)
  /-- CALCE, R115: `E <- (2P-1) div 3`. -/
  | calce
  /-- SEED, R116: `X <- K[33] mod P`. -/
  | seed
  /-- RNDB, R132: one backward round with `K[KI]`. -/
  | rndb (ki : BitVec 5)
  /-- RNDF, R133: one forward round with `K[KI]`. -/
  | rndf (ki : BitVec 5)
  /-- CHECK, R134: `OK <- (X mod P = K[33] mod P)`. -/
  | check
  /-- DELAY, R137: the whole backward walk. -/
  | delay
  /-- VERIFY, R138: the whole forward walk and the comparison. -/
  | verify
deriving DecidableEq, Repr

end Sys2Proof
end

