-- ==== Sys2Proof/Machine/State.lean ====
section
/-! DEFINITION. The architectural state of the VDF52 core as plain data (10_state.md), the events of its total
order (20_memory.md rule R50), and the state after reset (10_state.md rule R32). -/

namespace Sys2Proof.Machine

/-- One event of the total order of R50: what the host, the engine or the cipher does next. -/
inductive Event where
  /-- the reset input `rst` (R56, R190) -/
  | rst
  /-- `RegRead(n)`, a host read (R41) -/
  | read (n : RegNum)
  /-- `RegWrite(n, v)`, a host write (R42); a write of CMD is a command issue (R164) -/
  | write (n : RegNum) (v : Word)
  /-- the write of `w` to CMD merged with every engine step of the command it starts, one transition as R51 and
  D37 allow (log entry 5) -/
  | command (w : Word)
  /-- one engine step (R139), the cipher invocation of stage FK folded into it (R49) -/
  | engine
  /-- the engine presents its block at the cipher port, `c_req` (R48 item 1) -/
  | cipherRequest
  /-- the cipher answers the outstanding request, `c_ack` (R48 item 2) -/
  | cipherAnswer
deriving DecidableEq, Repr

/-- The stages of R28 and R139. -/
inductive Stage where
  /-- key schedule -/
  | fk
  /-- prime select -/
  | sp
  /-- seed -/
  | sd
  /-- backward rounds -/
  | rb
  /-- forward rounds -/
  | rf
  /-- final comparison -/
  | ck
  /-- single arithmetic or single-step command -/
  | ar
  /-- completion -/
  | fin
deriving DecidableEq, Repr

/-- The phase record `ph` of R28. -/
structure Phase where
  stage : Stage
  /-- index of the next cipher block in stage FK -/
  j : BitVec 5
  /-- number of rounds already performed in stage RB or RF -/
  r : BitVec 32
  /-- the ROUNDS value latched when the command was accepted -/
  n : BitVec 32
  /-- index of the round key the next round uses -/
  kn : BitVec 5
deriving DecidableEq, Repr

/-- The sequencer state `seq` of R28. The latched `op`, `ki`, `ti` stand as the decoded command (log entry
11). -/
inductive Seq where
  /-- no command in progress -/
  | idle
  /-- the accepted command is in progress at this phase -/
  | run (cmd : Instr) (ph : Phase)
deriving DecidableEq, Repr

/-- The hidden datapath state of R30. -/
structure Hidden where
  /-- the accumulator of square-and-multiply -/
  acc : Field
  /-- the running base, squared in each iteration -/
  base : Field
  /-- the exponent being consumed -/
  esh : Field
  /-- the iteration counter 0..52 -/
  i : BitVec 6
  /-- first multiplier operand latch -/
  ma : Field
  /-- second multiplier operand latch -/
  mb : Field
  /-- the running remainder of the integer multiplier -/
  mres : Field
  /-- the rounded product of the FPU-assisted multiplier -/
  ft : Binary64
  /-- the rounded quotient estimate -/
  fq : Binary64
  /-- the truncated quotient estimate -/
  qi : Word
  /-- the wrapped difference -/
  s : Word
  /-- the chaining block of the key controller -/
  cb : Block
  /-- difference, square or cube within a round -/
  t52 : Field
deriving DecidableEq, Repr

/-- Which data registers have been written, by the host or by a command, since the last reset (R196). R is not
listed: no command reads it (R20). -/
structure Written where
  rounds : Bool
  a : Bool
  b : Bool
  e : Bool
  p : Bool
  x : Bool
  ch : Vector Bool 4
  k : Vector Bool 34
deriving DecidableEq, Repr

/-- The record right after a reset: nothing is written. -/
def Written.none : Written where
  rounds := false
  a := false
  b := false
  e := false
  p := false
  x := false
  ch := Vector.replicate 4 false
  k := Vector.replicate 34 false

/-- The machine's state: what 10_state.md names, and the four fields of the model's own at the end. -/
structure State where
  /-- CTRL.IE (R22) -/
  ie : Bool
  /-- STATUS.BUSY (R25) -/
  busy : Bool
  /-- STATUS.DONE (R26) -/
  done : Bool
  /-- STATUS.OK (R27) -/
  ok : Bool
  /-- STATUS.ERR (R29) -/
  err : Bool
  /-- STATUS.ERRCODE (R29) -/
  errcode : BitVec 4
  /-- ROUNDS (R11) -/
  rounds : BitVec 32
  /-- A (R12) -/
  a : Field
  /-- B (R13) -/
  b : Field
  /-- E (R14) -/
  e : Field
  /-- PLO, the stored low half of P (R15) -/
  plo : BitVec 32
  /-- X (R16) -/
  x : Field
  /-- R (R17) -/
  r : Field
  /-- CH[0..3] (R18) -/
  ch : Challenge
  /-- K[0..33] (R19) -/
  k : Keys
  /-- the sequencer (R28) -/
  seq : Seq
  /-- the cipher request in flight: the block presented, not yet answered (R31) -/
  outstanding : Option Block
  /-- the hidden datapath registers (R30) -/
  hidden : Hidden
  /-- the model's own: which data registers are written since the last reset (R196; log entry 20) -/
  written : Written
  /-- the model's own: the events to come, the next one first (log entry 4) -/
  inputs : List Event
  /-- the model's own: the value on `h_rdata` after the last host read (R56; log entry 9) -/
  rdata : Option Word
  /-- the model's own: the index of the next free value (log entry 3) -/
  draws : Nat
deriving DecidableEq, Repr

/-- Reasons a step can stop with a fault: there are none. R170: "The block has no traps, no exceptions in the
processor sense and no handlers." Interface misuse is recorded in STATUS (R171) and the machine goes on. -/
inductive Fault where
deriving DecidableEq, Repr

/-- Reasons a step can be refused. -/
inductive Refusal where
  /-- raised by an arm of `exec` for an instruction that has no meaning yet; safe: the run stops there. No arm
  raises it, since every command has its meaning. -/
  | notModelled (mnemonic : String)
deriving DecidableEq, Repr

/-- The `i`-th free value at a register's width. -/
def drawn (w : Nat) (i : Nat) : BitVec w := (Config.draw i).setWidth w

/-- How many free values one reset draws: one for each data register, CH and K word and hidden register. -/
def drawsPerReset : Nat := 58

/-- The hidden registers holding unspecified values (R30, R32), drawn from index `i` on. -/
def Hidden.unspecified (i : Nat) : Hidden where
  acc := drawn 52 i
  base := drawn 52 (i + 1)
  esh := drawn 52 (i + 2)
  i := drawn 6 (i + 3)
  ma := drawn 52 (i + 4)
  mb := drawn 52 (i + 5)
  mres := drawn 52 (i + 6)
  ft := drawn 64 (i + 7)
  fq := drawn 64 (i + 8)
  qi := drawn 64 (i + 9)
  s := drawn 64 (i + 10)
  cb := drawn 128 (i + 11)
  t52 := drawn 52 (i + 12)

/-- The block right after a reset, hardware or soft (R32, R191): the control state is 0 and IDLE, every register
the table of R32 calls unspecified holds a free value drawn from index `i` on (DESIGN CHOICE, log entries 1 and
3, unsafe). What is not the block's own, the events to come and the value on the read port, is passed through. -/
def State.afterReset (i : Nat) (inputs : List Event) (rdata : Option Word) : State where
  ie := false
  busy := false
  done := false
  ok := false
  err := false
  errcode := 0#4
  rounds := drawn 32 i
  a := drawn 52 (i + 1)
  b := drawn 52 (i + 2)
  e := drawn 52 (i + 3)
  plo := drawn 32 (i + 4)
  x := drawn 52 (i + 5)
  r := drawn 52 (i + 6)
  ch := Vector.ofFn fun t => drawn 64 (i + 7 + t.val)
  k := Vector.ofFn fun t => drawn 64 (i + 11 + t.val)
  seq := .idle
  outstanding := none
  hidden := Hidden.unspecified (i + 45)
  written := Written.none
  inputs := inputs
  rdata := rdata
  draws := i + drawsPerReset

/-- The machine right after the first reset (R190, R191), with no event pending: "after reset the block is idle
and waits for host transfers". -/
def State.reset : State := State.afterReset 0 [] none

end Sys2Proof.Machine
end

