-- ==== Sys2Proof/Machine/Ops.lean ====
section
/-! DEFINITION. The shared operations: the one error action and its clearing (the block's substitute for taking
an exception and returning from one), reset, acceptance and completion of a command. -/

namespace Sys2Proof.Machine

/-- The error codes of R172. -/
inductive ErrCode where
  /-- 1: the opcode is not one of the fourteen -/
  | illegalOpcode
  /-- 2: legal opcode, a bit outside its fields is 1 -/
  | reservedField
  /-- 3: a CMD write while BUSY -/
  | busyCommand
  /-- 4: a data-register write while BUSY -/
  | busyWrite
  /-- 5: a write to ID, R or a reserved number -/
  | badWrite
deriving DecidableEq, Repr

/-- The value ERRCODE takes (R172). -/
def errNumber : ErrCode → BitVec 4
  | .illegalOpcode => 1#4
  | .reservedField => 2#4
  | .busyCommand => 3#4
  | .busyWrite => 4#4
  | .badWrite => 5#4

/-- `raise Err(code)` (R171, R175), the only error action, the analogue of trap entry: ERRCODE takes the code if
ERR was 0, ERR becomes 1, nothing else changes. -/
def raiseErr (c : ErrCode) (s : State) : State :=
  { s with errcode := if s.err then s.errcode else errNumber c, err := true }

/-- Clearing an error (R162, R176), the analogue of trap return: ERR and ERRCODE become 0. -/
def clearErr (s : State) : State := { s with err := false, errcode := 0#4 }

/-- A reset, hardware (R190) or soft (R163), "exactly the effect" of R191 at any time: a command in progress is
abandoned, an outstanding cipher request forgotten, and every data register becomes unspecified, with free values
not used before. -/
def resetBlock (s : State) : State := State.afterReset s.draws s.inputs s.rdata

/-- The first stage of each command (R139). -/
def firstStage : Instr → Stage
  | .nop => .fin
  | .mulmod => .ar
  | .modpow => .ar
  | .cube => .ar
  | .fillk => .fk
  | .selp => .ar
  | .ldp _ => .ar
  | .calce => .ar
  | .seed => .ar
  | .rndb _ => .ar
  | .rndf _ => .ar
  | .check => .ck
  | .delay => .fk
  | .verify => .fk

/-- The phase a command starts in (R164): `ph.n <- ROUNDS`, the counters 0, the command's first stage. -/
def firstPhase (i : Instr) (rounds : BitVec 32) : Phase where
  stage := firstStage i
  j := 0#5
  r := 0#32
  n := rounds
  kn := 0#5

/-- Acceptance of a command (R164): BUSY set, DONE and OK cleared, the command latched in `seq` with ROUNDS
(R53). ERR and ERRCODE keep their values. -/
def accept (i : Instr) (s : State) : State :=
  { s with busy := true, done := false, ok := false, seq := .run i (firstPhase i s.rounds) }

/-- Whether all of CH[0..3] has been written. -/
def challengeWritten (w : Written) : Bool := w.ch[0] && w.ch[1] && w.ch[2] && w.ch[3]

/-- Whether every data register the command reads has been written since the last reset: the table of R196. -/
def readsWritten (w : Written) : Instr → Bool
  | .nop => true
  | .mulmod => w.a && w.b && w.p
  | .modpow => w.a && w.e && w.p
  | .cube => w.a && w.p
  | .fillk => challengeWritten w
  | .selp => w.k[32]
  | .ldp _ => true
  | .calce => w.p
  | .seed => w.k[33] && w.p
  | .rndb ki => w.x && w.k[ki.toNat]'(by have := ki.isLt; omega) && w.e && w.p
  | .rndf ki => w.x && w.k[ki.toNat]'(by have := ki.isLt; omega) && w.p
  | .check => w.x && w.k[33] && w.p
  | .delay => challengeWritten w && w.rounds
  | .verify => challengeWritten w && w.rounds && w.x

/-- Which registers, and whether OK by a comparison, a command writes (R20). -/
structure Outputs where
  r : Bool := false
  p : Bool := false
  e : Bool := false
  x : Bool := false
  k : Bool := false
  ok : Bool := false
deriving DecidableEq, Repr

/-- The column "writes" of R20. -/
def outputsOf : Instr → Outputs
  | .nop => {}
  | .mulmod => { r := true }
  | .modpow => { r := true }
  | .cube => { r := true }
  | .fillk => { k := true }
  | .selp => { p := true, e := true }
  | .ldp _ => { p := true, e := true }
  | .calce => { e := true }
  | .seed => { x := true }
  | .rndb _ => { x := true }
  | .rndf _ => { x := true }
  | .check => { ok := true }
  | .delay => { k := true, p := true, e := true, x := true }
  | .verify => { k := true, p := true, x := true, ok := true }

/-- The record after a command with these outputs: what it wrote counts as written (R196, "unless an earlier
command wrote it"). -/
def markOutputs (o : Outputs) (w : Written) : Written :=
  { w with
    p := w.p || o.p
    e := w.e || o.e
    x := w.x || o.x
    k := if o.k then Vector.replicate 34 true else w.k }

/-- How many free values one completion draws: 13 for the hidden registers, then one each for R, PLO, E, X and OK
and 34 for K. -/
def drawsPerCompletion : Nat := 52

/-- Completion (R139, R164): BUSY cleared, DONE set, `seq` back to IDLE. At IDLE the hidden registers are
unspecified (R30), so they take free values (log entry 10). If the command read a register not written since the
last reset, "its results are unspecified" (R196, U4): each register it writes, and OK for CHECK and VERIFY, takes a
free value in place of what was computed (log entry 20). The record is still that of acceptance here, since the
engine does not touch it and the host's writes are refused while BUSY. -/
def complete (i : Instr) (s : State) : State :=
  let lost := !readsWritten s.written i
  let o := outputsOf i
  { s with
    busy := false
    done := true
    seq := .idle
    hidden := Hidden.unspecified s.draws
    r := if lost && o.r then drawn 52 (s.draws + 13) else s.r
    plo := if lost && o.p then drawn 32 (s.draws + 14) else s.plo
    e := if lost && o.e then drawn 52 (s.draws + 15) else s.e
    x := if lost && o.x then drawn 52 (s.draws + 16) else s.x
    ok := if lost && o.ok then (Config.draw (s.draws + 17))[0] else s.ok
    k := if lost && o.k then Vector.ofFn fun t => drawn 64 (s.draws + 18 + t.val) else s.k
    written := markOutputs o s.written
    draws := s.draws + drawsPerCompletion }

/-- The whole of one command as one transition (R51, D37; log entry 5): while BUSY the command is refused with
Err(3) and nothing else changes (R164); otherwise it is accepted, has its effect, and completes. -/
def runCommand (i : Instr) (effect : State → State) (s : State) : Host.Outcome State Fault Refusal :=
  if s.busy then .next (raiseErr .busyCommand s) else .next (complete i (effect (accept i s)))

end Sys2Proof.Machine
end

