-- ==== Sys2Proof/Machine/Flags.lean ====
section
/-! DEFINITION. The status and control words, the interrupt line, and the computation of every flag (10_state.md
rules R22 to R29, R34; 43_system.md rules R161, R162, R166). The block has no arithmetic flags (R97). -/

namespace Sys2Proof.Machine

/-- `irq = STATUS.DONE and CTRL.IE` (R34, R174): a level, not state. -/
def State.irq (s : State) : Bool := s.done && s.ie

/-- The value of STATUS (R23, R166): `zext_64(ERRCODE ‖ ERR ‖ OK ‖ DONE ‖ BUSY)`. -/
def statusWord (s : State) : Word :=
  (s.errcode ++ BitVec.ofBool s.err ++ BitVec.ofBool s.ok ++ BitVec.ofBool s.done
    ++ BitVec.ofBool s.busy).setWidth 64

/-- The value of CTRL (R22, R166): `zext_64(IE)`; SRST reads 0. -/
def ctrlWord (s : State) : Word := (BitVec.ofBool s.ie).setWidth 64

/-- Bit 0 of ID (R21). -/
def variantBit : Variant → BitVec 1
  | .int => 0#1
  | .fpu => 1#1

/-- The value of ID (R21, R165) for a build: REV = 1 in bits 15:8, VARIANT in bit 0, the rest 0. -/
def idWordOf (v : Variant) : Word := (1#8 ++ 0#7 ++ variantBit v).setWidth 64

/-- The value of ID of this block. -/
def idWord : Word := idWordOf Config.variant

/-- A write of STATUS (R162): write 1 to clear DONE (bit 1) and ERR with ERRCODE (bit 3); nothing else. -/
def writeStatus (v : Word) (s : State) : State :=
  let s1 := if v[1] then { s with done := false } else s
  if v[3] then clearErr s1 else s1

/-- A write of CTRL (R161): bit 1 is the soft reset (R163) and then bit 0 is irrelevant; otherwise IE takes
bit 0. -/
def writeCtrl (v : Word) (s : State) : State :=
  if v[1] then resetBlock s else { s with ie := v[0] }

/-- The comparison of R27 and R134: `mod64(X, P) = mod64(K[33], P)`. -/
def verifyEq (x : Field) (k33 : Word) (p : Field) : Bool := mod64 (x.setWidth 64) p == mod64 k33 p

end Sys2Proof.Machine
end

