-- ==== Sys2Proof/Machine/Operands.lean ====
section
/-! DEFINITION. Operand access: the register map of the host port (20_memory.md rules R40 to R43, R54), the
values registers read as and take (10_state.md rules R10, R33), and the engine's indexed reads. -/

namespace Sys2Proof.Machine

/-- What a register number names (R43, R54). -/
inductive Reg where
  | id
  | ctrl
  | status
  | cmd
  | rounds
  | a
  | b
  | e
  | p
  | x
  | r
  /-- `CH[i]`, number `0x10 + i` -/
  | ch (i : Fin 4)
  /-- `K[i]`, number `0x20 + i` -/
  | k (i : Fin 34)
  /-- 0x0B..0x0F, 0x14..0x1F, 0x42..0x7F -/
  | reserved
deriving DecidableEq, Repr

/-- The register map (R43); every number it does not list is reserved (R54). -/
def regOf (n : RegNum) : Reg :=
  if n = 0x00#7 then .id
  else if n = 0x01#7 then .ctrl
  else if n = 0x02#7 then .status
  else if n = 0x03#7 then .cmd
  else if n = 0x04#7 then .rounds
  else if n = 0x05#7 then .a
  else if n = 0x06#7 then .b
  else if n = 0x07#7 then .e
  else if n = 0x08#7 then .p
  else if n = 0x09#7 then .x
  else if n = 0x0A#7 then .r
  else if h : 0x10 ≤ n.toNat ∧ n.toNat ≤ 0x13 then .ch ⟨n.toNat - 0x10, by omega⟩
  else if h : 0x20 ≤ n.toNat ∧ n.toNat ≤ 0x41 then .k ⟨n.toNat - 0x20, by omega⟩
  else .reserved

/-- The number of a register; the reserved numbers are represented by their first, 0x0B (R43, R54). -/
def Reg.number : Reg → RegNum
  | .id => 0x00#7
  | .ctrl => 0x01#7
  | .status => 0x02#7
  | .cmd => 0x03#7
  | .rounds => 0x04#7
  | .a => 0x05#7
  | .b => 0x06#7
  | .e => 0x07#7
  | .p => 0x08#7
  | .x => 0x09#7
  | .r => 0x0A#7
  | .ch i => BitVec.ofNat 7 (0x10 + i.val)
  | .k i => BitVec.ofNat 7 (0x20 + i.val)
  | .reserved => 0x0B#7

/-- The registers the engine owns while BUSY (R51): ROUNDS, A, B, E, P, X, R, CH and K. -/
def Reg.owned : Reg → Bool
  | .id => false
  | .ctrl => false
  | .status => false
  | .cmd => false
  | .rounds => true
  | .a => true
  | .b => true
  | .e => true
  | .p => true
  | .x => true
  | .r => true
  | .ch _ => true
  | .k _ => true
  | .reserved => false

/-- The value of register P (R15). -/
def State.p (s : State) : Field := modulus s.plo

/-- The value of a register while the block is idle, zero-extended to 64 bits (R10, R41). -/
def regValue (s : State) : Reg → Word
  | .id => idWord
  | .ctrl => ctrlWord s
  | .status => statusWord s
  | .cmd => 0#64
  | .rounds => s.rounds.setWidth 64
  | .a => s.a.setWidth 64
  | .b => s.b.setWidth 64
  | .e => s.e.setWidth 64
  | .p => s.p.setWidth 64
  | .x => s.x.setWidth 64
  | .r => s.r.setWidth 64
  | .ch i => s.ch[i]
  | .k i => s.k[i]
  | .reserved => 0#64

/-- A plain store to a data register, CH or K (R33, R42): the register takes the low bits of its width, P only
`v[31:0]` (R15), and counts as written from then on (R196). The registers that are not plain stores keep their
values; `regWrite` sees to those. -/
def storeReg (v : Word) (s : State) : Reg → State
  | .id => s
  | .ctrl => s
  | .status => s
  | .cmd => s
  | .rounds => { s with rounds := v.setWidth 32, written := { s.written with rounds := true } }
  | .a => { s with a := v.setWidth 52, written := { s.written with a := true } }
  | .b => { s with b := v.setWidth 52, written := { s.written with b := true } }
  | .e => { s with e := v.setWidth 52, written := { s.written with e := true } }
  | .p => { s with plo := v.setWidth 32, written := { s.written with p := true } }
  | .x => { s with x := v.setWidth 52, written := { s.written with x := true } }
  | .r => s
  | .ch i => { s with ch := s.ch.set i v, written := { s.written with ch := s.written.ch.set i true } }
  | .k i => { s with k := s.k.set i v, written := { s.written with k := s.written.k.set i true } }
  | .reserved => s

/-- The window word `k[0..32)` a 5-bit index selects (R61, R135, R136). -/
def windowKey (k : Keys) (i : BitVec 5) : Word := k[i.toNat]'(by have := i.isLt; omega)

/-- `K[32][9:0]`, the prime index `k[32] mod 1024` (R113, R118). -/
def primeIndex (k : Keys) : BitVec 10 := k[32].setWidth 10

/-- Challenge byte `j` (R18, R44). -/
def challengeByte (ch : Challenge) (j : Fin 32) : BitVec 8 := (ch[j.val / 8]).extractLsb' (8 * (j.val % 8)) 8

/-- Byte `i` of a cipher block (R44). -/
def blockByte (b : Block) (i : Fin 16) : BitVec 8 := b.extractLsb' (8 * i.val) 8

/-- The cipher input made of the first challenge half (R110). -/
def in0 (ch : Challenge) : Block := ch[1] ++ ch[0]

/-- The cipher input made of the second challenge half (R110). -/
def in1 (ch : Challenge) : Block := ch[3] ++ ch[2]

/-- The first word of a block, `b[63:0]` (R44). -/
def lowWord (b : Block) : Word := b.extractLsb' 0 64

/-- The second word of a block, `b[127:64]` (R44). -/
def highWord (b : Block) : Word := b.extractLsb' 64 64

end Sys2Proof.Machine
end

