-- ==== Sys2Proof/Machine/Arith.lean ====
section
/-! DEFINITION. The field-arithmetic commands: MULMOD, MODPOW, CUBE (40_field_arithmetic.md rules R94 to R96). -/

namespace Sys2Proof.Machine

/-- The Operation of MULMOD (R94): `R <- mulmod(A, B, P)`. -/
def mulmodEffect (s : State) : State := { s with r := mulmod s.a s.b s.p }

/-- MULMOD (R94). -/
def execMulmod (s : State) : Host.Outcome State Fault Refusal := runCommand .mulmod mulmodEffect s

/-- The Operation of MODPOW (R95): `R <- modpow(A, E, P)`. -/
def modpowEffect (s : State) : State := { s with r := modpow s.a s.e s.p }

/-- MODPOW (R95). -/
def execModpow (s : State) : Host.Outcome State Fault Refusal := runCommand .modpow modpowEffect s

/-- The Operation of CUBE (R96): `T52 <- mulmod(A, A, P)`; `R <- mulmod(T52, A, P)`. -/
def cubeEffect (s : State) : State := { s with r := cube3 s.a s.p }

/-- CUBE (R96). -/
def execCube (s : State) : Host.Outcome State Fault Refusal := runCommand .cube cubeEffect s

end Sys2Proof.Machine
end

