-- ==== Sys2Proof/Machine/Schedule.lean ====
section
/-! DEFINITION. The key schedule as a function of the challenge and the cipher (41_key_derivation.md rules R110,
R111). The cipher is an argument, so that a statement may be about any cipher. -/

namespace Sys2Proof.Machine

/-- Block `B[j]` of R111: two independent encryptions, the second folded with the first, then a chain. -/
def keyBlock (enc : Block → Block) (ch : Challenge) : Nat → Block
  | 0 => enc (in0 ch)
  | 1 => enc (in1 ch) ^^^ enc (in0 ch)
  | j + 2 => enc (keyBlock enc ch (j + 1))

/-- Word `k[i]` of R111: the low half of block `i / 2` for an even `i`, the high half for an odd one. -/
def keyWord (enc : Block → Block) (ch : Challenge) (i : Nat) : Word :=
  if i % 2 = 0 then lowWord (keyBlock enc ch (i / 2)) else highWord (keyBlock enc ch (i / 2))

/-- `schedule(CH)` (R111): the 34 round-key words. -/
def schedule (enc : Block → Block) (ch : Challenge) : Keys := Vector.ofFn fun i => keyWord enc ch i.val

end Sys2Proof.Machine
end

