-- ==== Sys2Proof/Machine/KeyParam.lean ====
section
/-! DEFINITION. The key and parameter derivation commands: FILLK, SELP, LDP, CALCE, SEED (41_key_derivation.md
rules R112 to R116). -/

namespace Sys2Proof.Machine

/-- Select the prime at a table index and derive the exponent from the new P (R113, R114, R115). -/
def loadPrime (i : BitVec 10) (s : State) : State :=
  { s with plo := Config.primeTable i, e := exponentOf (modulus (Config.primeTable i)) }

/-- The Operation of FILLK (R112): `K[0..33] <- schedule(CH)`. -/
def fillkEffect (s : State) : State := { s with k := schedule Config.enc s.ch }

/-- FILLK (R112). -/
def execFillk (s : State) : Host.Outcome State Fault Refusal := runCommand .fillk fillkEffect s

/-- The Operation of SELP (R113): the index is `K[32][9:0]`. -/
def selpEffect (s : State) : State := loadPrime (primeIndex s.k) s

/-- SELP (R113). -/
def execSelp (s : State) : Host.Outcome State Fault Refusal := runCommand .selp selpEffect s

/-- The Operation of LDP (R114): the index is the immediate `TI`. -/
def ldpEffect (ti : BitVec 10) (s : State) : State := loadPrime ti s

/-- LDP (R114). -/
def execLdp (ti : BitVec 10) (s : State) : Host.Outcome State Fault Refusal :=
  runCommand (.ldp ti) (ldpEffect ti) s

/-- The Operation of CALCE (R115): `E <- (2 * P - 1) div 3`. -/
def calceEffect (s : State) : State := { s with e := exponentOf s.p }

/-- CALCE (R115). -/
def execCalce (s : State) : Host.Outcome State Fault Refusal := runCommand .calce calceEffect s

/-- The Operation of SEED (R116): `X <- mod64(K[33], P)`. -/
def seedEffect (s : State) : State := { s with x := mod64 s.k[33] s.p }

/-- SEED (R116). -/
def execSeed (s : State) : Host.Outcome State Fault Refusal := runCommand .seed seedEffect s

end Sys2Proof.Machine
end

