-- ==== Sys2Proof/Machine/Rounds.lean ====
section
/-! DEFINITION. The round functions, the two walks, and the source's two functions `delay` and `verify`
(42_permutation.md rules R130, R131, R135 to R138). -/

namespace Sys2Proof.Machine

/-- One backward round (R130). -/
def bwd (x : Field) (k : Word) (e p : Field) : Field := modpow (sub52 x k) e p

/-- One forward round (R131). -/
def fwd (x : Field) (k : Word) (p : Field) : Field := add52 (cube3 x p) k

/-- The key of round `r` of a walk in forward order, `k[r mod 32]` (R136). -/
def roundKey (k : Keys) (r : Nat) : Word := k[r % 32]'(by omega)

/-- The running value of a backward walk of `n` rounds after its first `r` rounds: round `r` uses
`k[(n - 1 - r) mod 32]` (R135, R137). -/
def backAfter (k : Keys) (e p : Field) (n : Nat) : (r : Nat) → Field → Field
  | 0, x => x
  | r + 1, x => bwd (backAfter k e p n r x) (roundKey k (n - 1 - r)) e p

/-- The running value of a forward walk after its first `r` rounds: round `r` uses `k[r mod 32]` (R136, R138). -/
def forwAfter (k : Keys) (p : Field) : (r : Nat) → Field → Field
  | 0, x => x
  | r + 1, x => fwd (forwAfter k p r x) (roundKey k r) p

/-- The modulus a key file selects (R113, R118). -/
def selectedModulus (table : BitVec 10 → BitVec 32) (k : Keys) : Field := modulus (table (primeIndex k))

/-- The seed and target `k[33] mod p` (R116, R118). -/
def seedOf (k : Keys) (p : Field) : Field := mod64 k[33] p

/-- The source's `delay(challenge, rounds) -> proof` (R2, R137), for any cipher and table. -/
def delayFn (enc : Block → Block) (table : BitVec 10 → BitVec 32) (ch : Challenge) (n : Nat) : Field :=
  let k := schedule enc ch
  let p := selectedModulus table k
  backAfter k (exponentOf p) p n n (seedOf k p)

/-- The running value at the end of a VERIFY of `x` (R138). -/
def verifyWalk (enc : Block → Block) (table : BitVec 10 → BitVec 32) (ch : Challenge) (n : Nat) (x : Field) :
    Field :=
  let k := schedule enc ch
  forwAfter k (selectedModulus table k) n x

/-- The source's `verify(challenge, rounds, proof) -> boolean` (R2, R138), for any cipher and table. -/
def verifyFn (enc : Block → Block) (table : BitVec 10 → BitVec 32) (ch : Challenge) (n : Nat) (x : Field) : Bool :=
  let k := schedule enc ch
  verifyEq (verifyWalk enc table ch n x) k[33] (selectedModulus table k)

end Sys2Proof.Machine
end

