-- ==== Sys2Proof/Machine/RoundCommands.lean ====
section
/-! DEFINITION. The single-step permutation commands: RNDB, RNDF, CHECK (42_permutation.md rules R132 to R134). -/

namespace Sys2Proof.Machine

/-- The Operation of RNDB (R132): `T52 <- sub52(X, K[KI])`; `X <- modpow(T52, E, P)`. -/
def rndbEffect (ki : BitVec 5) (s : State) : State := { s with x := bwd s.x (windowKey s.k ki) s.e s.p }

/-- RNDB (R132). -/
def execRndb (ki : BitVec 5) (s : State) : Host.Outcome State Fault Refusal :=
  runCommand (.rndb ki) (rndbEffect ki) s

/-- The Operation of RNDF (R133): `T52 <- cube3(X, P)`; `X <- add52(T52, K[KI])`. -/
def rndfEffect (ki : BitVec 5) (s : State) : State := { s with x := fwd s.x (windowKey s.k ki) s.p }

/-- RNDF (R133). -/
def execRndf (ki : BitVec 5) (s : State) : Host.Outcome State Fault Refusal :=
  runCommand (.rndf ki) (rndfEffect ki) s

/-- The Operation of CHECK (R134): OK becomes the comparison's result. -/
def checkEffect (s : State) : State := { s with ok := verifyEq s.x s.k[33] s.p }

/-- CHECK (R134). -/
def execCheck (s : State) : Host.Outcome State Fault Refusal := runCommand .check checkEffect s

end Sys2Proof.Machine
end

