-- ==== Sys2Proof/Machine/System.lean ====
section
/-! DEFINITION. The system command: NOP (43_system.md rule R160). -/

namespace Sys2Proof.Machine

/-- NOP (R160): "Operation: none"; it completes and so ends with DONE = 1 and OK = 0. -/
def execNop (s : State) : Host.Outcome State Fault Refusal := runCommand .nop id s

end Sys2Proof.Machine
end

