-- ==== Sys2Proof/Machine/Walks.lean ====
section
/-! DEFINITION. The whole walks: DELAY and VERIFY (42_permutation.md rules R137, R138). -/

namespace Sys2Proof.Machine

/-- The Operation of DELAY (R137): key schedule, prime selection with the exponent, seed, then ROUNDS backward
rounds. It writes K, P, E and X. -/
def delayEffect (s : State) : State :=
  let k := schedule Config.enc s.ch
  let p := selectedModulus Config.primeTable k
  { s with
    k := k
    plo := Config.primeTable (primeIndex k)
    e := exponentOf p
    x := backAfter k (exponentOf p) p s.rounds.toNat s.rounds.toNat (seedOf k p) }

/-- DELAY (R137). -/
def execDelay (s : State) : Host.Outcome State Fault Refusal := runCommand .delay delayEffect s

/-- The Operation of VERIFY (R138): key schedule, prime selection, ROUNDS forward rounds from the proof in X, then
the comparison into OK. It writes K, P, X and OK and does not write E. -/
def verifyEffect (s : State) : State :=
  let k := schedule Config.enc s.ch
  let p := selectedModulus Config.primeTable k
  let x := forwAfter k p s.rounds.toNat s.x
  { s with
    k := k
    plo := Config.primeTable (primeIndex k)
    x := x
    ok := verifyEq x k[33] p }

/-- VERIFY (R138). -/
def execVerify (s : State) : Host.Outcome State Fault Refusal := runCommand .verify verifyEffect s

end Sys2Proof.Machine
end

