-- ==== Sys2Proof/Machine/Dispatch.lean ====
section
/-! DEFINITION. The dispatch of a command to its meaning, one arm per constructor of Instr. -/

namespace Sys2Proof.Machine

def exec (i : Instr) (s : State) : Host.Outcome State Fault Refusal :=
  match i with
  | .nop => Sys2Proof.Machine.execNop s
  | .mulmod => Sys2Proof.Machine.execMulmod s
  | .modpow => Sys2Proof.Machine.execModpow s
  | .cube => Sys2Proof.Machine.execCube s
  | .fillk => Sys2Proof.Machine.execFillk s
  | .selp => Sys2Proof.Machine.execSelp s
  | .ldp ti => Sys2Proof.Machine.execLdp ti s
  | .calce => Sys2Proof.Machine.execCalce s
  | .seed => Sys2Proof.Machine.execSeed s
  | .rndb ki => Sys2Proof.Machine.execRndb ki s
  | .rndf ki => Sys2Proof.Machine.execRndf ki s
  | .check => Sys2Proof.Machine.execCheck s
  | .delay => Sys2Proof.Machine.execDelay s
  | .verify => Sys2Proof.Machine.execVerify s

end Sys2Proof.Machine
end

