-- ==== Sys2Proof/WellFormed.lean ====
section
/-! DEFINITION. Well-formedness of command words and of instructions. The word check is the opcode table of R63
read literally (`w and mask = match`), written apart from the decoder so that the two can be held against each
other. -/

namespace Sys2Proof

/-- One row of the opcode table (R63): a word is the row's command iff `w and mask = match`. -/
structure OpcodeRow where
  mnemonic : String
  pattern : Word
  mask : Word
deriving DecidableEq, Repr

/-- The fourteen rows of R63, in the table's order. -/
def opcodeTable : List OpcodeRow :=
  [ ⟨"NOP",    0x0000000000000000#64, 0xFFFFFFFFFFFFFFFF#64⟩,
    ⟨"MULMOD", 0x0000000000000010#64, 0xFFFFFFFFFFFFFFFF#64⟩,
    ⟨"MODPOW", 0x0000000000000011#64, 0xFFFFFFFFFFFFFFFF#64⟩,
    ⟨"CUBE",   0x0000000000000012#64, 0xFFFFFFFFFFFFFFFF#64⟩,
    ⟨"FILLK",  0x0000000000000020#64, 0xFFFFFFFFFFFFFFFF#64⟩,
    ⟨"SELP",   0x0000000000000021#64, 0xFFFFFFFFFFFFFFFF#64⟩,
    ⟨"LDP",    0x0000000000000022#64, 0xFFFFFFFFFC00FFFF#64⟩,
    ⟨"CALCE",  0x0000000000000023#64, 0xFFFFFFFFFFFFFFFF#64⟩,
    ⟨"SEED",   0x0000000000000024#64, 0xFFFFFFFFFFFFFFFF#64⟩,
    ⟨"RNDB",   0x0000000000000030#64, 0xFFFFFFFFFFFFE0FF#64⟩,
    ⟨"RNDF",   0x0000000000000031#64, 0xFFFFFFFFFFFFE0FF#64⟩,
    ⟨"CHECK",  0x0000000000000032#64, 0xFFFFFFFFFFFFFFFF#64⟩,
    ⟨"DELAY",  0x0000000000000040#64, 0xFFFFFFFFFFFFFFFF#64⟩,
    ⟨"VERIFY", 0x0000000000000041#64, 0xFFFFFFFFFFFFFFFF#64⟩ ]

/-- Whether a row of R63 matches the word. -/
def OpcodeRow.fits (row : OpcodeRow) (w : Word) : Bool := w &&& row.mask == row.pattern

/-- A command word is well formed when some row of R63 matches it (R64, R65). -/
def wordWellFormed (w : Word) : Bool := opcodeTable.any (·.fits w)

/-- R62: "Every value of either field is legal: a 5-bit `KI` cannot exceed 31 and a 10-bit `TI` cannot exceed
1023". The operand types carry the bounds, so every term of `Instr` is well formed. -/
def Instr.wellFormed : Instr → Bool
  | .nop => true
  | .mulmod => true
  | .modpow => true
  | .cube => true
  | .fillk => true
  | .selp => true
  | .ldp ti => ti.toNat < 1024
  | .calce => true
  | .seed => true
  | .rndb ki => ki.toNat < 32
  | .rndf ki => ki.toNat < 32
  | .check => true
  | .delay => true
  | .verify => true

end Sys2Proof
end

