-- ==== Sys2Proof/Decode.lean ====
section
/-! DEFINITION. The command decoder and encoder (30_encoding.md rules R60 to R66). -/

namespace Sys2Proof

/-- Why a word is refused (R64). -/
inductive DecodeError where
  /-- `w[7:0]` is not one of the fourteen opcodes: Err(1) -/
  | illegalOpcode
  /-- a bit of a "zero" field is 1 (R65): Err(2) -/
  | reservedField
deriving DecidableEq, Repr

/-- `OP`, bits 7:0 (R61). -/
def opField (w : Word) : BitVec 8 := w.extractLsb' 0 8

/-- `KI`, bits 12:8 (R61). -/
def kiField (w : Word) : BitVec 5 := w.extractLsb' 8 5

/-- `TI`, bits 25:16 (R61). -/
def tiField (w : Word) : BitVec 10 := w.extractLsb' 16 10

/-- Format N of R60: bits 63:8 are zero. -/
def formatN (w : Word) (i : Instr) : Except DecodeError Instr :=
  if w.extractLsb' 8 56 = 0#56 then .ok i else .error .reservedField

/-- Format K of R60: bits 63:13 are zero. -/
def formatK (w : Word) (mk : BitVec 5 → Instr) : Except DecodeError Instr :=
  if w.extractLsb' 13 51 = 0#51 then .ok (mk (kiField w)) else .error .reservedField

/-- Format T of R60: bits 63:26 and 15:8 are zero. -/
def formatT (w : Word) (mk : BitVec 10 → Instr) : Except DecodeError Instr :=
  if w.extractLsb' 26 38 = 0#38 ∧ w.extractLsb' 8 8 = 0#8 then .ok (mk (tiField w))
  else .error .reservedField

/-- Decoding of a command word (R64), a function of the word alone (R66): the opcode test comes before the test
of the reserved fields. -/
def decode (w : Word) : Except DecodeError Instr :=
  if opField w = 0x00#8 then formatN w .nop
  else if opField w = 0x10#8 then formatN w .mulmod
  else if opField w = 0x11#8 then formatN w .modpow
  else if opField w = 0x12#8 then formatN w .cube
  else if opField w = 0x20#8 then formatN w .fillk
  else if opField w = 0x21#8 then formatN w .selp
  else if opField w = 0x22#8 then formatT w .ldp
  else if opField w = 0x23#8 then formatN w .calce
  else if opField w = 0x24#8 then formatN w .seed
  else if opField w = 0x30#8 then formatK w .rndb
  else if opField w = 0x31#8 then formatK w .rndf
  else if opField w = 0x32#8 then formatN w .check
  else if opField w = 0x40#8 then formatN w .delay
  else if opField w = 0x41#8 then formatN w .verify
  else .error .illegalOpcode

/-- The command word of an instruction, written field by field from the formats of R60 and the opcodes of
R63. -/
def encode : Instr → Word
  | .nop     => 0#56 ++ 0x00#8
  | .mulmod  => 0#56 ++ 0x10#8
  | .modpow  => 0#56 ++ 0x11#8
  | .cube    => 0#56 ++ 0x12#8
  | .fillk   => 0#56 ++ 0x20#8
  | .selp    => 0#56 ++ 0x21#8
  | .ldp ti  => 0#38 ++ ti ++ 0#8 ++ 0x22#8
  | .calce   => 0#56 ++ 0x23#8
  | .seed    => 0#56 ++ 0x24#8
  | .rndb ki => 0#51 ++ ki ++ 0x30#8
  | .rndf ki => 0#51 ++ ki ++ 0x31#8
  | .check   => 0#56 ++ 0x32#8
  | .delay   => 0#56 ++ 0x40#8
  | .verify  => 0#56 ++ 0x41#8

/-- The host's view of the decoder: a command is one 64-bit word (R60), so `w` is the word; a number that does
not fit in `nbits` bits or in one word is no command. -/
def decodeTableWord (nbits w : Nat) : Option Instr :=
  if w < 2 ^ nbits ∧ w < 2 ^ 64 then
    match decode (BitVec.ofNat 64 w) with
    | .ok i => some i
    | .error _ => none
  else none

end Sys2Proof
end

