-- ==== Sys2Proof/Machine/Binary64.lean ====
section
/-! DEFINITION. The binary64 primitives of R88 on bit patterns, by exact rational arithmetic and one rounding to
nearest, ties to even. PRESUMED by the spec itself (G1, log entry 12): the format parameters are general
knowledge. The block's operands are finite and non-negative (R88), so the sign bit and the patterns of infinity
and NaN never arise. -/

namespace Sys2Proof.Machine

/-- The biased exponent as used for the value: subnormals share exponent 1. -/
def expOf (x : Binary64) : Nat := max 1 (x.extractLsb' 52 11).toNat

/-- The integer significand: 52 fraction bits and, for a normal number, the hidden bit. -/
def sigOf (x : Binary64) : Nat :=
  (x.extractLsb' 0 52).toNat + if x.extractLsb' 52 11 = 0#11 then 0 else 2 ^ 52

/-- The scale of `scaled`: every finite binary64 number is a whole multiple of `2^-1075`, and so is twice the
smallest one. -/
def unitScale : Nat := 2 ^ 1075

/-- The value of `x` times `unitScale`: `sig * 2^exp`, a natural number. -/
def scaled (x : Binary64) : Nat := sigOf x * 2 ^ expOf x

/-- The quotient `num / den` rounded to the nearest integer, ties to even. -/
def roundDiv (num den : Nat) : Nat :=
  let q := num / den
  let rem := num % den
  if 2 * rem > den ∨ (2 * rem = den ∧ q % 2 = 1) then q + 1 else q

/-- The biased exponent at which `num / den` has a 53-bit integer significand; 1 for the subnormal range. -/
def expFor (num den : Nat) : Nat := max 1 (Nat.log2 (num * unitScale / den) - 52)

/-- The binary64 number nearest to the non-negative rational `num / den`, ties to even (R88). A significand
rounded up to `2^53` carries into the exponent; past the largest finite number the pattern is infinity. -/
def roundRat (num den : Nat) : Binary64 :=
  let ex := expFor num den
  let sig := roundDiv (num * unitScale) (den * 2 ^ ex)
  let bits := if sig < 2 ^ 52 then sig else ex * 2 ^ 52 + (sig - 2 ^ 52)
  BitVec.ofNat 64 (min bits (0x7FF * 2 ^ 52))

/-- `f64(v)` for `v < 2^53`: exact (R88). -/
def f64 (v : Nat) : Binary64 := roundRat v 1

/-- `fmul(x, y)` (R88): the exact product rounded once. -/
def fmul (x y : Binary64) : Binary64 := roundRat (scaled x * scaled y) (unitScale * unitScale)

/-- `fdiv(x, y)` (R88): the exact quotient rounded once; the divisor is never 0 in this block. -/
def fdiv (x y : Binary64) : Binary64 := roundRat (scaled x) (scaled y)

/-- `trunc64(q)` for `0 ≤ q < 2^64` (R88): the fraction discarded. -/
def trunc64 (q : Binary64) : Word := BitVec.ofNat 64 (scaled q / unitScale)

end Sys2Proof.Machine
end

