-- ==== Sys2Proof/Machine/Multiplier.lean ====
section
/-! DEFINITION. The two multiplier variants and the exponentiation pipeline as algorithms over the hidden registers
of R30 (40_field_arithmetic.md rules R86, R89, R92). The commands are defined by the functions of R80 to R85, as
R91 allows; what these algorithms compute is stated, not assumed. -/

namespace Sys2Proof.Machine

/-- `if t >= p then t - p else t` of R86, the sum held in more than 52 bits. -/
def reduceOnce (t : Nat) (p : Field) : Field :=
  if p.toNat ≤ t then BitVec.ofNat 52 (t - p.toNat) else BitVec.ofNat 52 t

/-- One iteration of the integer multiplier's loop (R86). -/
def intIteration (p : Field) (h : Hidden) : Hidden :=
  { h with
    mres := if h.ma[0] then reduceOnce (h.mres.toNat + h.mb.toNat) p else h.mres
    ma := h.ma >>> 1
    mb := reduceOnce (2 * h.mb.toNat) p }

/-- The loop of R86, `while MA != 0`, at most `fuel` times; 52 iterations empty a 52-bit MA. -/
def intLoop (p : Field) : (fuel : Nat) → Hidden → Hidden
  | 0, h => h
  | fuel + 1, h => if h.ma = 0#52 then h else intLoop p fuel (intIteration p h)

/-- `mulmod_int(a, b, p)` (R86) on the hidden registers; the result is MRES. -/
def intMultiply (a b p : Field) (h : Hidden) : Hidden :=
  intLoop p 52 { h with ma := canon a p, mb := canon b p, mres := 0#52 }

/-- The biased quotient `QB` of R89. -/
def biasedQuotient (qi : Word) : Word := qi - 1#64

/-- `mulmod_fpu(a, b, p)` (R89) on the hidden registers; the result is `S mod p`. -/
def fpuMultiply (a b p : Field) (h : Hidden) : Hidden :=
  let ma := canon a p
  let mb := canon b p
  let ft := fmul (f64 ma.toNat) (f64 mb.toNat)
  let fq := fdiv ft (f64 p.toNat)
  let qi := trunc64 fq
  { h with
    ma := ma
    mb := mb
    ft := ft
    fq := fq
    qi := qi
    s := ma.setWidth 64 * mb.setWidth 64 - biasedQuotient qi * p.setWidth 64 }

/-- One pass through the multiplier of a build. The other variant's registers are not touched. -/
def multiply : Variant → Field → Field → Field → Hidden → Hidden
  | .int, a, b, p, h => intMultiply a b p h
  | .fpu, a, b, p, h => fpuMultiply a b p h

/-- What the multiplier returns after a pass (R86, R89). -/
def multiplyResult : Variant → Field → Hidden → Field
  | .int, _, h => h.mres
  | .fpu, p, h => mod64 h.s p

/-- `mulmod_int(a, b, p)` as a function (R86); the registers' earlier contents play no part. -/
def mulmodInt (a b p : Field) (h : Hidden) : Field := multiplyResult .int p (intMultiply a b p h)

/-- `mulmod_fpu(a, b, p)` as a function (R89). -/
def mulmodFpu (a b p : Field) (h : Hidden) : Field := multiplyResult .fpu p (fpuMultiply a b p h)

/-- One iteration of the pipeline of R92: the multiply stage when the exponent bit is 1, then the square stage;
each is one pass through the multiplier. -/
def pipeIteration (v : Variant) (p : Field) (h : Hidden) : Hidden :=
  let h1 :=
    if h.esh[0] then
      let m := multiply v h.acc h.base p h
      { m with acc := multiplyResult v p m }
    else h
  let m := multiply v h1.base h1.base p h1
  { m with base := multiplyResult v p m, esh := m.esh >>> 1, i := m.i + 1#6 }

/-- The registers at the start of the pipeline (R92). -/
def pipeStart (a e p : Field) (h : Hidden) : Hidden :=
  { h with acc := 1#52, base := canon a p, esh := e, i := 0#6 }

/-- The first `n` iterations of the pipeline. -/
def pipeRun (v : Variant) (p : Field) : (n : Nat) → Hidden → Hidden
  | 0, h => h
  | n + 1, h => pipeIteration v p (pipeRun v p n h)

/-- `modpow_pipe(a, e, p)` (R92) on the hidden registers: always 52 iterations; the result is ACC. -/
def pipeline (v : Variant) (a e p : Field) (h : Hidden) : Hidden := pipeRun v p 52 (pipeStart a e p h)

/-- The two passes of `cube3` (R83): the square, then its product with the original; T52 holds the square. -/
def cubePasses (v : Variant) (a p : Field) (h : Hidden) : Hidden :=
  let m := multiply v a a p h
  let q := multiplyResult v p m
  multiply v q a p { m with t52 := q }

end Sys2Proof.Machine
end

