-- ==== Sys2Proof/Machine/Engine.lean ====
section
/-! DEFINITION. The engine's step relation (42_permutation.md rule R139) and the cipher port (20_memory.md rules R48,
R49, 41_key_derivation.md rule R119): one engine step is one row of R139's table. -/

namespace Sys2Proof.Machine

/-- The hidden registers after one backward round (R132): the difference in T52, then the pipeline. -/
def backHidden (x : Field) (k : Word) (e p : Field) (h : Hidden) : Hidden :=
  pipeline Config.variant (sub52 x k) e p { h with t52 := sub52 x k }

/-- The hidden registers after one forward round (R133): the two passes of the cube, the cube in T52. -/
def forwHidden (x p : Field) (h : Hidden) : Hidden :=
  let m := cubePasses Config.variant x p h
  { m with t52 := multiplyResult Config.variant p m }

/-- The hidden registers after the single operation of a command of stage AR. -/
def arHidden (s : State) : Instr → Hidden
  | .nop => s.hidden
  | .mulmod => multiply Config.variant s.a s.b s.p s.hidden
  | .modpow => pipeline Config.variant s.a s.e s.p s.hidden
  | .cube => cubePasses Config.variant s.a s.p s.hidden
  | .fillk => s.hidden
  | .selp => s.hidden
  | .ldp _ => s.hidden
  | .calce => s.hidden
  | .seed => s.hidden
  | .rndb ki => backHidden s.x (windowKey s.k ki) s.e s.p s.hidden
  | .rndf _ => forwHidden s.x s.p s.hidden
  | .check => s.hidden
  | .delay => s.hidden
  | .verify => s.hidden

/-- The Operation of a command of stage AR (R139); the other commands never enter that stage and do nothing in it
(log entry 13). -/
def arEffect (s : State) : Instr → State
  | .nop => s
  | .mulmod => mulmodEffect s
  | .modpow => modpowEffect s
  | .cube => cubeEffect s
  | .fillk => s
  | .selp => selpEffect s
  | .ldp ti => ldpEffect ti s
  | .calce => calceEffect s
  | .seed => seedEffect s
  | .rndb ki => rndbEffect ki s
  | .rndf ki => rndfEffect ki s
  | .check => s
  | .delay => s
  | .verify => s

/-- Stage AR: the Operation, then FIN. -/
def arStep (cmd : Instr) (ph : Phase) (s : State) : State :=
  { arEffect s cmd with hidden := arHidden s cmd, seq := .run cmd { ph with stage := .fin } }

/-- The plaintext of the FK step at index `j` (R119): the two challenge halves, then the chaining block. -/
def fkPlaintext (j : BitVec 5) (s : State) : Block :=
  if j = 0#5 then in0 s.ch else if j = 1#5 then in1 s.ch else s.hidden.cb

/-- The chaining block after the answer `y` at index `j` (R119): the fold with `K[1] ‖ K[0]` at `j = 1`. -/
def fkChain (j : BitVec 5) (y : Block) (s : State) : Block :=
  if j = 1#5 then y ^^^ (s.k[1] ++ s.k[0]) else y

/-- The two K writes of the FK step at index `j` (R119). -/
def storePair (j : BitVec 5) (cb : Block) (k : Keys) : Keys :=
  (k.setIfInBounds (2 * j.toNat) (lowWord cb)).setIfInBounds (2 * j.toNat + 1) (highWord cb)

/-- Where stage FK leads when its 17 blocks are done (R139): FIN for FILLK, SP for DELAY and VERIFY. No other
command enters FK (log entry 13). -/
def afterFk : Instr → Stage
  | .nop => .fin
  | .mulmod => .fin
  | .modpow => .fin
  | .cube => .fin
  | .fillk => .fin
  | .selp => .fin
  | .ldp _ => .fin
  | .calce => .fin
  | .seed => .fin
  | .rndb _ => .fin
  | .rndf _ => .fin
  | .check => .fin
  | .delay => .sp
  | .verify => .sp

/-- Stage FK at the cipher's answer `y` (R119, R139): CB and two K words written, `j <- j + 1`, the stage left when
`j` reaches 17. -/
def fkAbsorb (y : Block) (cmd : Instr) (ph : Phase) (s : State) : State :=
  let cb := fkChain ph.j y s
  { s with
    k := storePair ph.j cb s.k
    hidden := { s.hidden with cb := cb }
    seq := .run cmd
      { ph with
        j := ph.j + 1#5
        stage := if (ph.j + 1#5).toNat < 17 then .fk else afterFk cmd } }

/-- Stage SP (R139): PLO from the table; DELAY also derives E and goes to SD, VERIFY starts its rounds with
`r <- 0`, `kn <- 0`. No other command enters SP (log entry 13). -/
def spStep (cmd : Instr) (ph : Phase) (s : State) : State :=
  if cmd = .delay then
    { loadPrime (primeIndex s.k) s with seq := .run cmd { ph with stage := .sd } }
  else
    { s with
      plo := Config.primeTable (primeIndex s.k)
      seq := .run cmd { ph with stage := .rf, r := 0#32, kn := 0#5 } }

/-- Stage SD (R139): `X <- mod64(K[33], P)`; `r <- 0`; `kn <- (n - 1) mod 32`, the low five bits of `n - 1`
(R135). -/
def sdStep (cmd : Instr) (ph : Phase) (s : State) : State :=
  { seedEffect s with
    seq := .run cmd { ph with stage := .rb, r := 0#32, kn := (ph.n - 1#32).setWidth 5 } }

/-- Stage RB (R139): one backward round with `K[kn]`, `kn` counting down modulo 32 (R135), until `r = n`. -/
def rbStep (cmd : Instr) (ph : Phase) (s : State) : State :=
  if ph.r = ph.n then { s with seq := .run cmd { ph with stage := .fin } }
  else
    { s with
      x := bwd s.x (windowKey s.k ph.kn) s.e s.p
      hidden := backHidden s.x (windowKey s.k ph.kn) s.e s.p s.hidden
      seq := .run cmd { ph with r := ph.r + 1#32, kn := ph.kn - 1#5 } }

/-- Stage RF (R139): one forward round with `K[kn]`, `kn` counting up modulo 32 (R136), until `r = n`. -/
def rfStep (cmd : Instr) (ph : Phase) (s : State) : State :=
  if ph.r = ph.n then { s with seq := .run cmd { ph with stage := .ck } }
  else
    { s with
      x := fwd s.x (windowKey s.k ph.kn) s.p
      hidden := forwHidden s.x s.p s.hidden
      seq := .run cmd { ph with r := ph.r + 1#32, kn := ph.kn + 1#5 } }

/-- One engine step at a phase (R139). In stage FK the cipher invocation is folded into the step (R49), unless a
request is already in flight: then the engine waits for the answer (R31). -/
def phaseStep (cmd : Instr) (ph : Phase) (s : State) : State :=
  match ph.stage with
  | .ar => arStep cmd ph s
  | .fk =>
    match s.outstanding with
    | none => fkAbsorb (Config.enc (fkPlaintext ph.j s)) cmd ph s
    | some _ => s
  | .sp => spStep cmd ph s
  | .sd => sdStep cmd ph s
  | .rb => rbStep cmd ph s
  | .rf => rfStep cmd ph s
  | .ck => complete cmd (checkEffect s)
  | .fin => complete cmd s

/-- One engine step (R139): "The engine is enabled iff `seq = RUN(op, ki, ti, ph)`"; otherwise nothing happens. -/
def engineStep (s : State) : State :=
  match s.seq with
  | .idle => s
  | .run cmd ph => phaseStep cmd ph s

/-- `n` engine steps in a row. -/
def engineRun : (n : Nat) → State → State
  | 0, s => s
  | n + 1, s => engineRun n (engineStep s)

/-- The engine presents its block (R48 item 1): only in stage FK, and at most one request is in flight (R31). -/
def cipherRequest (s : State) : State :=
  match s.seq, s.outstanding with
  | .run _ ph, none => if ph.stage = .fk then { s with outstanding := some (fkPlaintext ph.j s) } else s
  | .run _ _, some _ => s
  | .idle, _ => s

/-- The cipher's answer to the request in flight (R48 items 2 and 3): `ENC` of the block presented. The engine
absorbs it; an answer that finds no request, as one that comes after a reset, is discarded (R31, R192). -/
def cipherAnswer (s : State) : State :=
  match s.outstanding with
  | none => s
  | some b =>
    match s.seq with
    | .idle => { s with outstanding := none }
    | .run cmd ph =>
      if ph.stage = .fk then fkAbsorb (Config.enc b) cmd ph { s with outstanding := none }
      else { s with outstanding := none }

/-- How many engine steps a command takes from acceptance to completion (R203): `21 + n` for DELAY, `20 + n` for
VERIFY, 18 for FILLK, 1 or 2 for the others. -/
def stepsToComplete (n : Nat) : Instr → Nat
  | .nop => 1
  | .mulmod => 2
  | .modpow => 2
  | .cube => 2
  | .fillk => 18
  | .selp => 2
  | .ldp _ => 2
  | .calce => 2
  | .seed => 2
  | .rndb _ => 2
  | .rndf _ => 2
  | .check => 1
  | .delay => 21 + n
  | .verify => 20 + n

end Sys2Proof.Machine
end

