-- ==== Sys2Proof/Machine/Port.lean ====
section
/-! DEFINITION. The host register port (20_memory.md rules R41, R42, R51; 43_system.md rule R164) and what each event
of the total order does. -/

namespace Sys2Proof.Machine

/-- The value `RegRead(n)` returns (R41). A data register read while BUSY gives an unspecified 64-bit value: the
next free value (log entry 2). -/
def readValue (n : RegNum) (s : State) : Word :=
  if s.busy ∧ (regOf n).owned then drawn 64 s.draws else regValue s (regOf n)

/-- `RegRead(n)` (R41, R46): the value goes to the read port; nothing of the block changes. A read that took a free
value uses it up, so that the next such read gets another. -/
def regRead (n : RegNum) (s : State) : State :=
  { s with
    rdata := some (readValue n s)
    draws := if s.busy ∧ (regOf n).owned then s.draws + 1 else s.draws }

/-- The error a refused command word raises (R64). -/
def decodeErrCode : DecodeError → ErrCode
  | .illegalOpcode => .illegalOpcode
  | .reservedField => .reservedField

/-- Command issue (R164) with the given continuation for an accepted command: BUSY is tested before the word is
decoded (R173), then the opcode, then the reserved fields. -/
def issueWith (accepted : Instr → State → Host.Outcome State Fault Refusal) (w : Word) (s : State) :
    Host.Outcome State Fault Refusal :=
  if s.busy then .next (raiseErr .busyCommand s)
  else
    match decode w with
    | .ok i => accepted i s
    | .error d => .next (raiseErr (decodeErrCode d) s)

/-- Command issue (R164): an accepted command is latched and the engine takes over. -/
def issue (w : Word) (s : State) : Host.Outcome State Fault Refusal :=
  issueWith (fun i t => .next (accept i t)) w s

/-- A write to a data register, CH or K (R42, R51): refused with Err(4) while BUSY, else a masked store. -/
def writeOwned (v : Word) (reg : Reg) (s : State) : State :=
  if s.busy then raiseErr .busyWrite s else storeReg v s reg

/-- `RegWrite(n, v)` (R42): the test for code 5 comes before the test for code 4. -/
def regWrite (n : RegNum) (v : Word) (s : State) : Host.Outcome State Fault Refusal :=
  match regOf n with
  | .ctrl => .next (writeCtrl v s)
  | .status => .next (writeStatus v s)
  | .cmd => issue v s
  | .id => .next (raiseErr .badWrite s)
  | .r => .next (raiseErr .badWrite s)
  | .reserved => .next (raiseErr .badWrite s)
  | .rounds => .next (writeOwned v .rounds s)
  | .a => .next (writeOwned v .a s)
  | .b => .next (writeOwned v .b s)
  | .e => .next (writeOwned v .e s)
  | .p => .next (writeOwned v .p s)
  | .x => .next (writeOwned v .x s)
  | .ch i => .next (writeOwned v (.ch i) s)
  | .k i => .next (writeOwned v (.k i) s)

/-- What one event does. `run` is the meaning of a whole accepted command, for the event that merges a CMD write
with its command (log entry 5). -/
def handle (run : Instr → State → Host.Outcome State Fault Refusal) (s : State) :
    Event → Host.Outcome State Fault Refusal
  | .rst => .next (resetBlock s)
  | .read n => .next (regRead n s)
  | .write n v => regWrite n v s
  | .command w => issueWith run w s
  | .engine => .next (engineStep s)
  | .cipherRequest => .next (cipherRequest s)
  | .cipherAnswer => .next (cipherAnswer s)

/-- With no event pending the block goes on by itself (R203, fairness; log entry 6): an outstanding request is
answered, otherwise the engine takes a step if it is enabled. -/
def ownTurn (s : State) : State :=
  match s.outstanding with
  | none => engineStep s
  | some _ => cipherAnswer s

end Sys2Proof.Machine
end

