-- ==== Sys2Proof/Machine/Step.lean ====
section
/-! DEFINITION. One step of the machine: the next event of the total order (20_memory.md rule R50). -/

namespace Sys2Proof.Machine

/-- One step (R50): the first pending event takes its full effect; with none pending the block goes on by
itself. -/
def step (s : State) : Host.Outcome State Fault Refusal :=
  match s.inputs with
  | [] => .next (ownTurn s)
  | ev :: rest => handle exec { s with inputs := rest } ev

/-- The state in which the host is about to issue the command word `w` (log entry 4): commands are not stored in
the block (R40, R53), so the place a step fetches its next one from is the head of the pending events. `nbits` is
64 for every row of the table. -/
def State.withFetchWord (s : State) (nbits w : Nat) : State :=
  { s with inputs := .command (BitVec.ofNat 64 (w % 2 ^ nbits)) :: s.inputs }

end Sys2Proof.Machine
end

