-- ==== Sys2Proof/Machine/Script.lean ====
section
/-! DEFINITION. The host script of 30_encoding.md rules R67 and R68 as lists of events. -/

namespace Sys2Proof.Machine

/-- A line of the host script (R67). -/
inductive ScriptLine where
  /-- `WR <reg>, <value>` -/
  | wr (reg : Reg) (v : Word)
  /-- `RD <reg>` -/
  | rd (reg : Reg)
  /-- a mnemonic with its immediate: a write of its word to CMD -/
  | cmd (i : Instr)
  /-- `RUN <command>` (R68): issue and wait for completion, the steps of the command merged (log entry 5) -/
  | run (i : Instr)
deriving DecidableEq, Repr

/-- The transfer a line stands for (R67): the pair of a register number and 64-bit data with a read/write flag. -/
def ScriptLine.event : ScriptLine → Event
  | .wr reg v => .write reg.number v
  | .rd reg => .read reg.number
  | .cmd i => .write Reg.cmd.number (encode i)
  | .run i => .command (encode i)

/-- `CLRDONE` (R68). -/
def clrDone : ScriptLine := .wr .status 0x2#64

/-- `CLRERR` (R68). -/
def clrErr : ScriptLine := .wr .status 0x8#64

/-- `SRST` (R68). -/
def softReset : ScriptLine := .wr .ctrl 0x2#64

/-- `WAIT` (R68) when the engine takes `turns` steps before the poll that sees BUSY = 0: polls before it change
nothing (R41), so only the last one is written out. -/
def waitFor (turns : Nat) : List Event := List.replicate turns .engine ++ [(ScriptLine.rd .status).event]

/-- The word `wi` of `LDCH` (R68): bytes `8i .. 8i+7`, the first in the least significant place. -/
def challengeWord (bytes : Vector (BitVec 8) 32) (i : Fin 4) : Word :=
  bytes[8 * i.val + 7] ++ bytes[8 * i.val + 6] ++ bytes[8 * i.val + 5] ++ bytes[8 * i.val + 4]
    ++ bytes[8 * i.val + 3] ++ bytes[8 * i.val + 2] ++ bytes[8 * i.val + 1] ++ bytes[8 * i.val]

/-- `LDCH <b0 b1 ... b31>` (R68): load a 32-byte challenge. -/
def loadChallenge (bytes : Vector (BitVec 8) 32) : List ScriptLine :=
  [ .wr (.ch 0) (challengeWord bytes 0), .wr (.ch 1) (challengeWord bytes 1),
    .wr (.ch 2) (challengeWord bytes 2), .wr (.ch 3) (challengeWord bytes 3) ]

/-- `delay(c, n)` (R68). -/
def delayScript (bytes : Vector (BitVec 8) 32) (n : Word) : List ScriptLine :=
  loadChallenge bytes ++ [.wr .rounds n, .run .delay, .rd .x]

/-- `verify(c, n, x)` (R68); bit 2 of the STATUS read is the result. -/
def verifyScript (bytes : Vector (BitVec 8) 32) (n x : Word) : List ScriptLine :=
  loadChallenge bytes ++ [.wr .rounds n, .wr .x x, .run .verify, .rd .status]

end Sys2Proof.Machine
end

