-- ==== Sys2Proof/Safety.lean ====
section
/-! DEFINITION. What counts as a safe run, in the terms the statements use: the invariants of the state, the side
conditions of the permutation's theorems, and the parts of the state a frame speaks of. -/

namespace Sys2Proof.Machine

/-- Which stages a command passes through (R139). -/
def stageFits : Instr → Stage → Bool
  | .nop, st => st == .fin
  | .mulmod, st => st == .ar || st == .fin
  | .modpow, st => st == .ar || st == .fin
  | .cube, st => st == .ar || st == .fin
  | .fillk, st => st == .fk || st == .fin
  | .selp, st => st == .ar || st == .fin
  | .ldp _, st => st == .ar || st == .fin
  | .calce, st => st == .ar || st == .fin
  | .seed, st => st == .ar || st == .fin
  | .rndb _, st => st == .ar || st == .fin
  | .rndf _, st => st == .ar || st == .fin
  | .check, st => st == .ck
  | .delay, st => st == .fk || st == .sp || st == .sd || st == .rb || st == .fin
  | .verify, st => st == .fk || st == .sp || st == .rf || st == .ck

/-- The counters of a phase are where R28, R135 and R136 put them: `j < 17` inside FK; `r` never passes `n`; before
backward round `r`, `kn = (n - 1 - r) mod 32`; before forward round `r`, `kn = r mod 32`. -/
def countersOk (ph : Phase) : Prop :=
  match ph.stage with
  | .fk => ph.j.toNat < 17
  | .sp => ph.j = 17#5
  | .sd => ph.j = 17#5
  | .rb => ph.r.toNat ≤ ph.n.toNat ∧ ph.kn = (ph.n - 1#32 - ph.r).setWidth 5
  | .rf => ph.r.toNat ≤ ph.n.toNat ∧ ph.kn = ph.r.setWidth 5
  | .ck => True
  | .ar => True
  | .fin => True

/-- The sequencer is in a state some command reaches: the stage is one of the command's, `n` is ROUNDS (which the
engine owns while it runs, R51), and the counters are in place. -/
def seqOk (s : State) : Prop :=
  match s.seq with
  | .idle => True
  | .run cmd ph => stageFits cmd ph.stage = true ∧ ph.n = s.rounds ∧ countersOk ph

/-- R28: "`seq = IDLE` iff BUSY = 0"; and DONE and OK are 0 while a command runs (R25 to R27). -/
def statusOk (s : State) : Prop :=
  (s.busy = true ↔ s.seq ≠ .idle) ∧ (s.busy = true → s.done = false ∧ s.ok = false)

/-- R172: ERRCODE is 0 while ERR = 0 and one of the codes 1 to 5 while ERR = 1; 6 to 15 are "never raised". -/
def errOk (s : State) : Prop :=
  (s.err = false → s.errcode = 0#4) ∧ (s.err = true → 1 ≤ s.errcode.toNat ∧ s.errcode.toNat ≤ 5)

/-- R31: a request is in flight only during stage FK, and it carries that step's plaintext. -/
def requestOk (s : State) : Prop :=
  ∀ b, s.outstanding = some b → ∃ cmd ph, s.seq = .run cmd ph ∧ ph.stage = .fk ∧ b = fkPlaintext ph.j s

/-- The invariant every step keeps. -/
structure State.Inv (s : State) : Prop where
  status : statusOk s
  err : errOk s
  seq : seqOk s
  request : requestOk s

/-- How far the key schedule has come in stage FK (R119): the first `2 j` words are those of `schedule(CH)`, and CB
is the block before. -/
def scheduleUpTo (j : Nat) (s : State) : Prop :=
  (∀ i : Fin 34, i.val < 2 * j → s.k[i] = keyWord Config.enc s.ch i.val)
    ∧ (1 ≤ j → s.hidden.cb = keyBlock Config.enc s.ch (j - 1))

/-- The keys, P and E of a DELAY whose prime is selected (R137). -/
def delayParams (s : State) : Prop :=
  s.k = schedule Config.enc s.ch
    ∧ s.plo = Config.primeTable (primeIndex (schedule Config.enc s.ch))
    ∧ s.e = exponentOf s.p

/-- What a running DELAY has computed so far (R119, R135, R137), stage by stage: in stage RB the running value is
that of the backward walk after `r` of `n` rounds; in FIN it is the proof. -/
def delayProgress (s : State) : Prop :=
  match s.seq with
  | .idle => True
  | .run cmd ph =>
    cmd = .delay →
      match ph.stage with
      | .fk => scheduleUpTo ph.j.toNat s
      | .sp => s.k = schedule Config.enc s.ch
      | .sd => delayParams s
      | .rb => delayParams s
          ∧ s.x = backAfter s.k s.e s.p ph.n.toNat ph.r.toNat (seedOf s.k s.p)
      | .fin => delayParams s
          ∧ s.x = delayFn Config.enc Config.primeTable s.ch s.rounds.toNat
      | .rf => True
      | .ck => True
      | .ar => True

/-- The hypothesis of R7 on one modulus: a prime congruent to 5 modulo 6. -/
def modulusOk (p : Field) : Prop := p.toNat.Prime ∧ p.toNat % 6 = 5

/-- `TableOK` of R7: every entry makes such a modulus. -/
def tableOk (table : BitVec 10 → BitVec 32) : Prop := ∀ i, modulusOk (modulus (table i))

/-- The side condition of R141 for one round: the difference of backward round `r` of `n` is below P. -/
def differenceBelow (k : Keys) (e p : Field) (n r : Nat) (x0 : Field) : Prop :=
  sub52 (backAfter k e p n r x0) (roundKey k (n - 1 - r)) < p

/-- The host event leaves a running command alone: everything but a reset (R51, R163). -/
def Event.keepsCommand : Event → Bool
  | .rst => false
  | .read _ => true
  | .write n v => !(n == 0x01#7 && v[1])
  | .command _ => true
  | .engine => false
  | .cipherRequest => false
  | .cipherAnswer => false

/-- The data registers of R51 hold the same values in both states. -/
structure SameData (s t : State) : Prop where
  rounds : t.rounds = s.rounds
  a : t.a = s.a
  b : t.b = s.b
  e : t.e = s.e
  plo : t.plo = s.plo
  x : t.x = s.x
  r : t.r = s.r
  ch : t.ch = s.ch
  k : t.k = s.k

/-- `v` is a free value drawn on the way from `s` to `t`, one that no earlier event used (R196; log entries 3 and
20). -/
def freshDraw {w : Nat} (s t : State) (v : BitVec w) : Prop := ∃ j, s.draws ≤ j ∧ j < t.draws ∧ v = drawn w j

/-- A command completed (R164, R199): BUSY = 0, DONE = 1, `seq` idle, and all that no command touches, CTRL, ERR,
ERRCODE, the registers no command writes (R20), the request port and the host's side, is as before. -/
structure Completed (s t : State) : Prop where
  busy : t.busy = false
  done : t.done = true
  seq : t.seq = .idle
  ie : t.ie = s.ie
  err : t.err = s.err
  errcode : t.errcode = s.errcode
  rounds : t.rounds = s.rounds
  a : t.a = s.a
  b : t.b = s.b
  ch : t.ch = s.ch
  outstanding : t.outstanding = s.outstanding
  inputs : t.inputs = s.inputs
  rdata : t.rdata = s.rdata

end Sys2Proof.Machine
end

