-- ==== Sys2Proof/Certificates/Slice0/Obligations.lean ====
section
/-! DEFINITION. The statements for the provers. Each docstring names the rule of spec/ it formalises, or says that it
rests on a choice of the model's and names the log entry. -/

open Sys2Proof Sys2Proof.Machine

/-! ### Encoding -/

/-- R60 to R65: a word decodes to a command exactly when it is that command's word, so no bit of a word is dropped
and no two commands share a word. -/
def Obligations.DecodeInvertsEncode : Prop :=
  ∀ (w : Word) (i : Instr), decode w = .ok i ↔ encode i = w

/-- R63, R65: the decoder accepts exactly the words some row of the opcode table matches, `w and mask = match`. -/
def Obligations.DecoderAcceptsExactlyTheTable : Prop :=
  ∀ w : Word, (∃ i, decode w = .ok i) ↔ wordWellFormed w = true

/-- R63: words written out from the formats decode to the commands they stand for. -/
def Obligations.WrittenWordsDecode : Prop :=
  decode 0x0000000000000000#64 = .ok .nop
    ∧ decode 0x0000000000000010#64 = .ok .mulmod
    ∧ decode 0x0000000003FF0022#64 = .ok (.ldp 1023#10)
    ∧ decode 0x0000000000000331#64 = .ok (.rndf 3#5)
    ∧ decode 0x0000000000001F30#64 = .ok (.rndb 31#5)
    ∧ decode 0x0000000000000040#64 = .ok .delay

/-! ### A step, reset, and the error action -/

/-- The model's own step (log entries 4 and 5): a pending command word that decodes to `i` runs as `exec i`, at
every state; and `withFetchWord` is the state in which that happens next. -/
def Obligations.StepRunsDecodedCommand : Prop :=
  (∀ (s : State) (w : Word) (rest : List Event) (i : Instr),
      s.inputs = .command w :: rest → decode w = .ok i → step s = exec i { s with inputs := rest })
    ∧ ∀ (s : State) (i : Instr), step (s.withFetchWord 64 (encode i).toNat) = exec i s

/-- R64, R164: the four ends of a command issue by a write to CMD (register 0x03). While BUSY the word is not
decoded; otherwise an opcode that is no row's is refused with code 1, a reserved bit with code 2, and a command's
word is accepted and latched with ROUNDS. ERRCODE takes the code only if ERR was 0 (R171). -/
def Obligations.CommandIssueProtocol : Prop :=
  ∀ (s : State) (w : Word) (rest : List Event), s.inputs = .write 0x03#7 w :: rest →
    let s0 := { s with inputs := rest }
    (s.busy = true →
        step s = .next { s0 with errcode := if s.err then s.errcode else 3#4, err := true })
      ∧ (s.busy = false → opcodeTable.all (fun row => row.pattern.setWidth 8 != w.setWidth 8) = true →
          step s = .next { s0 with errcode := if s.err then s.errcode else 1#4, err := true })
      ∧ (s.busy = false → opcodeTable.any (fun row => row.pattern.setWidth 8 == w.setWidth 8) = true →
          wordWellFormed w = false →
          step s = .next { s0 with errcode := if s.err then s.errcode else 2#4, err := true })
      ∧ ∀ i, s.busy = false → encode i = w →
          step s = .next
            { s0 with
              busy := true
              done := false
              ok := false
              seq := .run i ⟨firstStage i, 0#5, 0#32, s.rounds, 0#5⟩ }

/-- R171: `raise Err(code)` changes ERR and ERRCODE and nothing else; a raise while ERR = 1 leaves ERRCODE; the codes
are 1 to 5. -/
def Obligations.RaiseErrChangesOnlyErrAndErrcode : Prop :=
  ∀ (c : ErrCode) (s : State),
    (s.err = false → raiseErr c s = { s with err := true, errcode := errNumber c })
      ∧ (s.err = true → raiseErr c s = s)
      ∧ 1 ≤ (errNumber c).toNat ∧ (errNumber c).toNat ≤ 5

/-- R171, R172: no event but a host write that raises one of the five codes takes ERR from 0 to 1, and such a step is
that raise and nothing more. (`.command` is the CMD write merged with its command, log entry 5.) -/
def Obligations.OnlyHostWritesSetErr : Prop :=
  ∀ s t : State, step s = .next t → s.err = false → t.err = true →
    ∃ (ev : Event) (rest : List Event) (c : ErrCode), s.inputs = ev :: rest
      ∧ ((∃ n v, ev = .write n v) ∨ ∃ w, ev = .command w)
      ∧ t = raiseErr c { s with inputs := rest }

/-- R32, R191: the control state after reset. The registers the rule calls unspecified hold free values, of which
this says nothing but that P's fixed upper bits hold. -/
def Obligations.ResetLeavesControlStateClear : Prop :=
  State.reset.ie = false ∧ State.reset.busy = false ∧ State.reset.done = false ∧ State.reset.ok = false
    ∧ State.reset.err = false ∧ State.reset.errcode = 0#4 ∧ State.reset.seq = .idle
    ∧ State.reset.outstanding = none ∧ State.reset.irq = false
    ∧ regValue State.reset .status = 0#64 ∧ regValue State.reset .ctrl = 0#64
    ∧ 2 ^ 52 - 2 ^ 32 ≤ State.reset.p.toNat

/-- R163, R190, R191: a soft reset, a write to CTRL with bit 1 set, does at any state exactly what the reset input
does: the control state clears, a command in progress and a request in flight are forgotten. Three parts are the
model's own choice: that the value on the read port is left alone (log entry 9), that the events to come are (log
entry 4), and that the two next states agree even on the registers the spec calls unspecified, since both resets
draw from one counter (log entry 3). -/
def Obligations.SoftResetEqualsHardwareReset : Prop :=
  ∀ (s : State) (v : Word) (rest : List Event), v[1] = true →
    ∃ t, step { s with inputs := .rst :: rest } = .next t
      ∧ step { s with inputs := .write 0x01#7 v :: rest } = .next t
      ∧ t.ie = false ∧ t.busy = false ∧ t.done = false ∧ t.ok = false ∧ t.err = false ∧ t.errcode = 0#4
      ∧ t.seq = .idle ∧ t.outstanding = none ∧ t.irq = false ∧ t.inputs = rest ∧ t.rdata = s.rdata

/-- R170: no event faults and none is refused; the engine is total over all register contents. -/
def Obligations.EveryStepAnswersNext : Prop :=
  ∀ s : State, ∃ t, step s = .next t

/-! ### The host register port -/

/-- R162: a write of STATUS, busy or not, clears DONE by bit 1 and ERR with ERRCODE by bit 3, and does nothing
else. -/
def Obligations.StatusWriteOneToClear : Prop :=
  ∀ (s : State) (v : Word) (rest : List Event), s.inputs = .write 0x02#7 v :: rest →
    step s = .next
      { s with
        inputs := rest
        done := if v[1] then false else s.done
        err := if v[3] then false else s.err
        errcode := if v[3] then 0#4 else s.errcode }

/-- R161: a write of CTRL with bit 1 set is the reset, whatever bit 0 holds; without it, busy or not, IE takes bit 0
and nothing else changes, and the interrupt line follows at once. That the soft reset and the reset input lead to one
and the same state even in the registers R32 leaves unspecified, and leave the read port and the events to come
alone, is the model's choice (log entries 3, 9 and 4). -/
def Obligations.CtrlWriteSetsInterruptEnableOrResets : Prop :=
  ∀ (s : State) (v : Word) (rest : List Event), s.inputs = .write 0x01#7 v :: rest →
    (v[1] = true → step s = step { s with inputs := .rst :: rest })
      ∧ (v[1] = false →
          ∃ t, step s = .next t ∧ t = { s with inputs := rest, ie := v[0] } ∧ t.irq = (s.done && v[0]))

/-- R166: a read of STATUS gives the five flag fields in their places and zeros above, a read of CTRL gives IE in bit
0; at any time, and nothing but the read port changes. -/
def Obligations.StatusAndCtrlReads : Prop :=
  ∀ (s : State) (rest : List Event),
    (∃ w : Word, step { s with inputs := .read 0x02#7 :: rest } = .next { s with inputs := rest, rdata := some w }
        ∧ w[0] = s.busy ∧ w[1] = s.done ∧ w[2] = s.ok ∧ w[3] = s.err ∧ w.extractLsb' 4 4 = s.errcode
        ∧ w.extractLsb' 8 56 = 0#56)
      ∧ ∃ w : Word, step { s with inputs := .read 0x01#7 :: rest } = .next { s with inputs := rest, rdata := some w }
        ∧ w[0] = s.ie ∧ w.extractLsb' 1 63 = 0#63

/-- R21: ID reads as VARIANT in bit 0, REV = 1 in bits 15:8 and 0 elsewhere, at any time; a write raises Err(5). -/
def Obligations.IdIsConstant : Prop :=
  ∀ (s : State) (v : Word) (rest : List Event),
    (∃ w : Word, step { s with inputs := .read 0x00#7 :: rest } = .next { s with inputs := rest, rdata := some w }
        ∧ (w[0] = true ↔ Config.variant = .fpu) ∧ w.extractLsb' 1 7 = 0#7 ∧ w.extractLsb' 8 8 = 1#8
        ∧ w.extractLsb' 16 48 = 0#48)
      ∧ step { s with inputs := .write 0x00#7 v :: rest } = .next (raiseErr .badWrite { s with inputs := rest })

/-- R41, R43, R54: a read of any register number, at any state, changes nothing but the read port (and the model's
counter of free values, log entries 2 and 3, which stays too while idle); CMD and the reserved numbers 0x0B..0x0F,
0x14..0x1F, 0x42..0x7F read 0 whether or not BUSY; and while idle a read returns the register named by the map,
zero-extended. -/
def Obligations.ReadsFollowTheRegisterMap : Prop :=
  ∀ (s : State) (n : RegNum) (rest : List Event), s.inputs = .read n :: rest →
    (∃ d, step s = .next { s with inputs := rest, rdata := some (readValue n s), draws := d }
        ∧ (s.busy = false → d = s.draws))
      ∧ (n = 0x03#7 ∨ (0x0B ≤ n.toNat ∧ n.toNat ≤ 0x0F) ∨ (0x14 ≤ n.toNat ∧ n.toNat ≤ 0x1F) ∨ 0x42 ≤ n.toNat →
          readValue n s = 0#64)
      ∧ (s.busy = false →
          readValue 0x04#7 s = s.rounds.setWidth 64
            ∧ readValue 0x05#7 s = s.a.setWidth 64
            ∧ readValue 0x06#7 s = s.b.setWidth 64
            ∧ readValue 0x07#7 s = s.e.setWidth 64
            ∧ (readValue 0x08#7 s).toNat = 0x000FFFFF00000000 + s.plo.toNat
            ∧ readValue 0x09#7 s = s.x.setWidth 64
            ∧ readValue 0x0A#7 s = s.r.setWidth 64
            ∧ (∀ i : Fin 4, readValue (BitVec.ofNat 7 (0x10 + i.val)) s = s.ch[i])
            ∧ ∀ i : Fin 34, readValue (BitVec.ofNat 7 (0x20 + i.val)) s = s.k[i])

/-- R33, R42: an idle write of a data register, CH or K stores the low bits of its width, P only `v[31:0]`, and
changes nothing else of the block; so an operand's bits 63:52 play no part. (`w` is the model's record of what is
written, log entry 20, of which this says nothing.) -/
def Obligations.IdleWritesAreMaskedStores : Prop :=
  ∀ (s : State) (v : Word) (rest : List Event), s.busy = false →
    let after := fun n : RegNum => step { s with inputs := .write n v :: rest }
    let s0 := fun w : Written => { s with inputs := rest, written := w }
    (∃ w, after 0x04#7 = .next { s0 w with rounds := v.setWidth 32 })
      ∧ (∃ w, after 0x05#7 = .next { s0 w with a := v.setWidth 52 })
      ∧ (∃ w, after 0x06#7 = .next { s0 w with b := v.setWidth 52 })
      ∧ (∃ w, after 0x07#7 = .next { s0 w with e := v.setWidth 52 })
      ∧ (∃ w, after 0x08#7 = .next { s0 w with plo := v.setWidth 32 })
      ∧ (∃ w, after 0x09#7 = .next { s0 w with x := v.setWidth 52 })
      ∧ (∀ i : Fin 4, ∃ w, after (BitVec.ofNat 7 (0x10 + i.val)) = .next { s0 w with ch := s.ch.set i v })
      ∧ ∀ i : Fin 34, ∃ w, after (BitVec.ofNat 7 (0x20 + i.val)) = .next { s0 w with k := s.k.set i v }

/-- R42, R54, R172, R173: a write to ID, R or a reserved number raises Err(5) whether or not the block is busy; a
write to any other data register while BUSY raises Err(4). -/
def Obligations.RefusedWritesRaiseTheirCode : Prop :=
  ∀ (s : State) (n : RegNum) (v : Word) (rest : List Event), s.inputs = .write n v :: rest →
    (n = 0x00#7 ∨ (0x0A ≤ n.toNat ∧ n.toNat ≤ 0x0F) ∨ (0x14 ≤ n.toNat ∧ n.toNat ≤ 0x1F) ∨ 0x42 ≤ n.toNat →
        step s = .next { s with inputs := rest, errcode := if s.err then s.errcode else 5#4, err := true })
      ∧ (s.busy = true →
          (0x04 ≤ n.toNat ∧ n.toNat ≤ 0x09) ∨ (0x10 ≤ n.toNat ∧ n.toNat ≤ 0x13)
            ∨ (0x20 ≤ n.toNat ∧ n.toNat ≤ 0x41) →
          step s = .next { s with inputs := rest, errcode := if s.err then s.errcode else 4#4, err := true })

/-- R51: while a command runs, no host transfer but a reset changes a data register, the sequencer, the request in
flight or the hidden state, or ends the command; nor the model's record of what is written (log entry 20). -/
def Obligations.HostCannotDisturbRunningCommand : Prop :=
  ∀ (s : State) (ev : Event) (rest : List Event), s.busy = true → s.inputs = ev :: rest →
    ev.keepsCommand = true →
    ∃ t, step s = .next t ∧ SameData s t ∧ t.busy = true ∧ t.seq = s.seq ∧ t.hidden = s.hidden
      ∧ t.outstanding = s.outstanding ∧ t.ok = s.ok ∧ t.written = s.written

/-- R34, R174: the interrupt line is DONE and IE at every moment: a completed command raises it when IE is set, its
acceptance lowers it, and so do clearing DONE, clearing IE and a reset; an error does not move it. -/
def Obligations.InterruptLineFollowsDoneAndEnable : Prop :=
  ∀ (s : State) (i : Instr) (v : Word) (c : ErrCode),
    (s.irq = true ↔ s.done = true ∧ s.ie = true)
      ∧ (s.busy = false → ∃ t, exec i s = .next t ∧ t.irq = s.ie)
      ∧ (accept i s).irq = false
      ∧ (v[1] = true → (writeStatus v s).irq = false)
      ∧ (v[1] = false → (writeCtrl v s).irq = (s.done && v[0]))
      ∧ (resetBlock s).irq = false
      ∧ (raiseErr c s).irq = s.irq

/-! ### The commands, one by one: the next state of each command's own effect, and its frame

Each is stated for the states in which the registers the command reads have been written since the last reset, the
condition of R196; what a command does without that is `UnwrittenInputFreesTheResults`. -/

/-- R160: NOP completes with DONE = 1 and OK = 0, raises the interrupt line if IE is set, and touches no data
register; its first engine step is the completing one. That the command and that step lead to one and the same state
even in the hidden registers, which R30 leaves unspecified, is the model's choice (log entries 3 and 10). -/
def Obligations.NopCompletes : Prop :=
  decode 0x0000000000000000#64 = .ok .nop
    ∧ ∀ s : State, s.busy = false →
        ∃ t, exec .nop s = .next t ∧ Completed s t ∧ SameData s t ∧ t.ok = false ∧ t.irq = s.ie
          ∧ engineStep (accept .nop s) = t

/-- R94: MULMOD leaves `A * B mod P` in R, below P, and OK = 0; nothing else of the data changes. -/
def Obligations.MulmodWritesProductResidue : Prop :=
  decode 0x0000000000000010#64 = .ok .mulmod
    ∧ ∀ s : State, s.busy = false → s.written.a = true → s.written.b = true → s.written.p = true →
        ∃ t, exec .mulmod s = .next t ∧ Completed s t ∧ t.ok = false
          ∧ t.r.toNat = s.a.toNat * s.b.toNat % s.p.toNat ∧ t.r < s.p
          ∧ SameData { s with r := t.r } t

/-- R95: MODPOW leaves `A ^ E mod P` in R, below P, and OK = 0; nothing else of the data changes. -/
def Obligations.ModpowWritesPowerResidue : Prop :=
  decode 0x0000000000000011#64 = .ok .modpow
    ∧ ∀ s : State, s.busy = false → s.written.a = true → s.written.e = true → s.written.p = true →
        ∃ t, exec .modpow s = .next t ∧ Completed s t ∧ t.ok = false
          ∧ t.r.toNat = s.a.toNat ^ s.e.toNat % s.p.toNat ∧ t.r < s.p
          ∧ SameData { s with r := t.r } t

/-- R96: CUBE leaves `A ^ 3 mod P` in R, below P, and OK = 0; nothing else of the data changes. -/
def Obligations.CubeWritesCubeResidue : Prop :=
  decode 0x0000000000000012#64 = .ok .cube
    ∧ ∀ s : State, s.busy = false → s.written.a = true → s.written.p = true →
        ∃ t, exec .cube s = .next t ∧ Completed s t ∧ t.ok = false
          ∧ t.r.toNat = s.a.toNat ^ 3 % s.p.toNat ∧ t.r < s.p
          ∧ SameData { s with r := t.r } t

/-- R111: FILLK leaves in K the words of the seventeen blocks: the two halves encrypted, the second folded with the
first, then the chain. OK = 0; nothing else of the data changes. -/
def Obligations.FillkWritesTheSchedule : Prop :=
  ∀ s : State, s.busy = false → (∀ i : Fin 4, s.written.ch[i] = true) →
    ∃ t, exec .fillk s = .next t ∧ Completed s t ∧ t.ok = false ∧ SameData { s with k := t.k } t
      ∧ ∃ B : Nat → Block,
          B 0 = Config.enc (s.ch[1] ++ s.ch[0])
            ∧ B 1 = Config.enc (s.ch[3] ++ s.ch[2]) ^^^ B 0
            ∧ (∀ j, 2 ≤ j → j ≤ 16 → B j = Config.enc (B (j - 1)))
            ∧ ∀ j : Fin 17, t.k[2 * j.val] = (B j).extractLsb' 0 64
                ∧ t.k[2 * j.val + 1] = (B j).extractLsb' 64 64

/-- R113, and R114's Operation: SELP takes the prime at index `K[32] mod 1024`, LDP the one at TI; E becomes
`(2 P - 1) div 3` with the new P. OK = 0; nothing else of the data changes. -/
def Obligations.SelpAndLdpLoadPrimeAndExponent : Prop :=
  decode 0x0000000000000021#64 = .ok .selp ∧ ∀ s : State, s.busy = false →
    (s.written.k[32] = true → ∃ t, exec .selp s = .next t ∧ Completed s t ∧ t.ok = false
        ∧ t.plo = Config.primeTable (BitVec.ofNat 10 (s.k[32].toNat % 1024))
        ∧ t.p.toNat = 0x000FFFFF00000000 + t.plo.toNat
        ∧ t.e.toNat = (2 * t.p.toNat - 1) / 3
        ∧ SameData { s with plo := t.plo, e := t.e } t)
      ∧ ∀ ti : BitVec 10, ∃ t, exec (.ldp ti) s = .next t ∧ Completed s t ∧ t.ok = false
        ∧ t.plo = Config.primeTable ti
        ∧ t.p.toNat = 0x000FFFFF00000000 + t.plo.toNat
        ∧ t.e.toNat = (2 * t.p.toNat - 1) / 3
        ∧ SameData { s with plo := t.plo, e := t.e } t

/-- R115: CALCE leaves `(2 P - 1) div 3` in E; when `P mod 3 = 2` the division is exact and `3 E = 2 (P - 1) + 1`,
so `3 E` is 1 modulo `P - 1` (the spec marks that sentence as its own inference). OK = 0; nothing else of the data
changes. -/
def Obligations.CalceWritesInverseExponent : Prop :=
  decode 0x0000000000000023#64 = .ok .calce
    ∧ ∀ s : State, s.busy = false → s.written.p = true →
        ∃ t, exec .calce s = .next t ∧ Completed s t ∧ t.ok = false
          ∧ t.e.toNat = (2 * s.p.toNat - 1) / 3
          ∧ (s.p.toNat % 3 = 2 →
              3 * t.e.toNat = 2 * (s.p.toNat - 1) + 1 ∧ 3 * t.e.toNat % (s.p.toNat - 1) = 1)
          ∧ SameData { s with e := t.e } t

/-- R116: SEED leaves `K[33] mod P` in X, all 64 bits of K[33] taken, below P. OK = 0; nothing else of the data
changes. -/
def Obligations.SeedWritesTarget : Prop :=
  decode 0x0000000000000024#64 = .ok .seed
    ∧ ∀ s : State, s.busy = false → s.written.k[33] = true → s.written.p = true →
        ∃ t, exec .seed s = .next t ∧ Completed s t ∧ t.ok = false
          ∧ t.x.toNat = s.k[33].toNat % s.p.toNat ∧ t.x < s.p
          ∧ SameData { s with x := t.x } t

/-- R132, R130: RNDB leaves `((X - K[KI]) mod 2^52) ^ E mod P` in X, for every KI; only bits 51:0 of the key take
part. OK = 0; nothing else of the data changes. -/
def Obligations.RndbRunsOneBackwardRound : Prop :=
  ∀ (ki : BitVec 5) (s : State), s.busy = false →
    s.written.x = true → (s.written.k[ki.toNat]'(by have := ki.isLt; omega)) = true →
    s.written.e = true → s.written.p = true →
    ∃ t, exec (.rndb ki) s = .next t ∧ Completed s t ∧ t.ok = false
      ∧ t.x.toNat =
          ((s.x.toNat + 2 ^ 52 - (s.k[ki.toNat]'(by have := ki.isLt; omega)).toNat % 2 ^ 52) % 2 ^ 52) ^ s.e.toNat
            % s.p.toNat
      ∧ t.x < s.p
      ∧ SameData { s with x := t.x } t

/-- R133, R131: RNDF leaves `(X ^ 3 mod P + K[KI]) mod 2^52` in X, for every KI; E is not read. OK = 0; nothing else
of the data changes. -/
def Obligations.RndfRunsOneForwardRound : Prop :=
  ∀ (ki : BitVec 5) (s : State), s.busy = false →
    s.written.x = true → (s.written.k[ki.toNat]'(by have := ki.isLt; omega)) = true →
    s.written.p = true →
    ∃ t, exec (.rndf ki) s = .next t ∧ Completed s t ∧ t.ok = false
      ∧ t.x.toNat =
          (s.x.toNat ^ 3 % s.p.toNat + (s.k[ki.toNat]'(by have := ki.isLt; omega)).toNat) % 2 ^ 52
      ∧ SameData { s with x := t.x } t

/-- R134: CHECK sets OK exactly when `X mod P = K[33] mod P`; no data register changes and no error is raised
(R177). -/
def Obligations.CheckComparesResidues : Prop :=
  decode 0x0000000000000032#64 = .ok .check
    ∧ ∀ s : State, s.busy = false → s.written.x = true → s.written.k[33] = true → s.written.p = true →
        ∃ t, exec .check s = .next t ∧ Completed s t ∧ SameData s t
          ∧ (t.ok = true ↔ s.x.toNat % s.p.toNat = s.k[33].toNat % s.p.toNat)

/-- R137: DELAY leaves the schedule in K, the selected prime in P, its exponent in E and the end of the ROUNDS
backward rounds from the seed in X, round `r` with `K[(n - 1 - r) mod 32]`. OK = 0; nothing else of the data
changes. The running values are named `xs`. -/
def Obligations.DelayRunsTheBackwardWalk : Prop :=
  ∀ s : State, s.busy = false → (∀ i : Fin 4, s.written.ch[i] = true) → s.written.rounds = true →
    ∃ t, exec .delay s = .next t ∧ Completed s t ∧ t.ok = false
      ∧ t.k = schedule Config.enc s.ch
      ∧ t.plo = Config.primeTable (BitVec.ofNat 10 (t.k[32].toNat % 1024))
      ∧ t.e.toNat = (2 * t.p.toNat - 1) / 3
      ∧ SameData { s with k := t.k, plo := t.plo, e := t.e, x := t.x } t
      ∧ ∃ xs : Nat → Field,
          (xs 0).toNat = t.k[33].toNat % t.p.toNat
            ∧ (∀ r, r < s.rounds.toNat →
                xs (r + 1) = bwd (xs r) (t.k[(s.rounds.toNat - 1 - r) % 32]'(by omega)) t.e t.p)
            ∧ t.x = xs s.rounds.toNat ∧ t.x < t.p

/-- R138: VERIFY leaves the schedule in K, the selected prime in P, and the end of the ROUNDS forward rounds from the
proof in X, round `r` with `K[r mod 32]`; OK says whether it is `K[33]` modulo P. It does not write E; nothing else
of the data changes. The running values are named `xs`. -/
def Obligations.VerifyRunsTheForwardWalk : Prop :=
  ∀ s : State, s.busy = false → (∀ i : Fin 4, s.written.ch[i] = true) → s.written.rounds = true →
    s.written.x = true →
    ∃ t, exec .verify s = .next t ∧ Completed s t
      ∧ t.k = schedule Config.enc s.ch
      ∧ t.plo = Config.primeTable (BitVec.ofNat 10 (t.k[32].toNat % 1024))
      ∧ SameData { s with k := t.k, plo := t.plo, x := t.x } t
      ∧ (t.ok = true ↔ t.x.toNat % t.p.toNat = t.k[33].toNat % t.p.toNat)
      ∧ ∃ xs : Nat → Field,
          xs 0 = s.x
            ∧ (∀ r, r < s.rounds.toNat → xs (r + 1) = fwd (xs r) (t.k[r % 32]'(by omega)) t.p)
            ∧ t.x = xs s.rounds.toNat

/-- R142, which the spec infers from R137 and R138: with ROUNDS = 0, DELAY leaves the seed `K[33] mod P` in X; VERIFY
after that DELAY ends with OK = 1; and VERIFY of a proof in X ends with OK = 1 exactly for the proofs equal to the
seed modulo P. -/
def Obligations.ZeroRoundsLeaveTheSeed : Prop :=
  ∀ s : State, s.busy = false → (∀ i : Fin 4, s.written.ch[i] = true) → s.written.rounds = true →
    s.rounds = 0#32 →
    (∃ t v, exec .delay s = .next t ∧ t.x.toNat = t.k[33].toNat % t.p.toNat
        ∧ exec .verify t = .next v ∧ v.ok = true)
      ∧ (s.written.x = true →
          ∃ u, exec .verify s = .next u ∧ (u.ok = true ↔ s.x.toNat % u.p.toNat = u.k[33].toNat % u.p.toNat))

/-- R164, R51: every command issued while BUSY is refused with Err(3) and has none of its effect. -/
def Obligations.BusyCommandIsRefused : Prop :=
  ∀ (i : Instr) (s : State), s.busy = true →
    exec i s = .next { s with errcode := if s.err then s.errcode else 3#4, err := true }

/-- R20 (the "writes" column): which data registers a command may change, whatever the command and the state. -/
def Obligations.CommandsWriteOnlyTheirRegisters : Prop :=
  ∀ (i : Instr) (s t : State), exec i s = .next t →
    t.rounds = s.rounds ∧ t.a = s.a ∧ t.b = s.b ∧ t.ch = s.ch ∧ t.ie = s.ie
      ∧ (t.r ≠ s.r → i = .mulmod ∨ i = .modpow ∨ i = .cube)
      ∧ (t.k ≠ s.k → i = .fillk ∨ i = .delay ∨ i = .verify)
      ∧ (t.plo ≠ s.plo → i = .selp ∨ (∃ ti, i = .ldp ti) ∨ i = .delay ∨ i = .verify)
      ∧ (t.e ≠ s.e → i = .selp ∨ (∃ ti, i = .ldp ti) ∨ i = .calce ∨ i = .delay)
      ∧ (t.x ≠ s.x → i = .seed ∨ (∃ ki, i = .rndb ki) ∨ (∃ ki, i = .rndf ki) ∨ i = .delay ∨ i = .verify)

/-- R30: the hidden registers carry nothing from one command to the next: whatever they hold, an idle block's next
command ends in the same state. That the two next states agree even on what R30 and R196 leave unspecified is the
model's choice: completion takes free values from one counter (log entries 3, 10 and 20). -/
def Obligations.HiddenStateCarriesNothing : Prop :=
  ∀ (i : Instr) (s : State) (h : Hidden), s.busy = false → exec i { s with hidden := h } = exec i s

/-- R143 (a): what DELAY and VERIFY leave is a function of the challenge, the round count, and for VERIFY the proof,
whatever else the two blocks hold, once those registers have been written (R196). -/
def Obligations.WalksDependOnTheirInputsOnly : Prop :=
  ∀ s u : State, s.busy = false → u.busy = false → s.ch = u.ch → s.rounds = u.rounds →
    (∀ i : Fin 4, s.written.ch[i] = true ∧ u.written.ch[i] = true) →
    s.written.rounds = true → u.written.rounds = true →
    (∃ t v, exec .delay s = .next t ∧ exec .delay u = .next v
        ∧ t.k = v.k ∧ t.plo = v.plo ∧ t.e = v.e ∧ t.x = v.x ∧ t.ok = v.ok)
      ∧ (s.x = u.x → s.written.x = true → u.written.x = true →
          ∃ t v, exec .verify s = .next t ∧ exec .verify u = .next v
            ∧ t.k = v.k ∧ t.plo = v.plo ∧ t.x = v.x ∧ t.ok = v.ok)

/-! ### Registers not written since the last reset -/

/-- R196: the set-up table, command by command: which registers must have been written before it. -/
def Obligations.SetupTableOfTheCommands : Prop :=
  ∀ (w : Written) (ti : BitVec 10) (ki : BitVec 5),
    readsWritten w .nop = true
      ∧ (readsWritten w .mulmod = true ↔ w.a = true ∧ w.b = true ∧ w.p = true)
      ∧ (readsWritten w .modpow = true ↔ w.a = true ∧ w.e = true ∧ w.p = true)
      ∧ (readsWritten w .cube = true ↔ w.a = true ∧ w.p = true)
      ∧ (readsWritten w .fillk = true ↔ ∀ i : Fin 4, w.ch[i] = true)
      ∧ (readsWritten w .selp = true ↔ w.k[32] = true)
      ∧ readsWritten w (.ldp ti) = true
      ∧ (readsWritten w .calce = true ↔ w.p = true)
      ∧ (readsWritten w .seed = true ↔ w.k[33] = true ∧ w.p = true)
      ∧ (readsWritten w (.rndb ki) = true ↔
          w.x = true ∧ (w.k[ki.toNat]'(by have := ki.isLt; omega)) = true ∧ w.e = true ∧ w.p = true)
      ∧ (readsWritten w (.rndf ki) = true ↔
          w.x = true ∧ (w.k[ki.toNat]'(by have := ki.isLt; omega)) = true ∧ w.p = true)
      ∧ (readsWritten w .check = true ↔ w.x = true ∧ w.k[33] = true ∧ w.p = true)
      ∧ (readsWritten w .delay = true ↔ (∀ i : Fin 4, w.ch[i] = true) ∧ w.rounds = true)
      ∧ (readsWritten w .verify = true ↔ (∀ i : Fin 4, w.ch[i] = true) ∧ w.rounds = true ∧ w.x = true)

/-- R196, in the model's record (log entry 20): a reset leaves nothing written; a host write of a data register while
idle adds that register and no other; a command adds the registers it writes and no other. -/
def Obligations.WrittenRecordFollowsTheWrites : Prop :=
  State.reset.written = Written.none
    ∧ (∀ (s : State) (rest : List Event),
        ∃ t, step { s with inputs := .rst :: rest } = .next t ∧ t.written = Written.none)
    ∧ (∀ (s : State) (v : Word) (rest : List Event), s.busy = false →
        let record := fun (n : RegNum) (w : Written) =>
          ∃ t, step { s with inputs := .write n v :: rest } = .next t ∧ t.written = w
        record 0x04#7 { s.written with rounds := true }
          ∧ record 0x05#7 { s.written with a := true }
          ∧ record 0x06#7 { s.written with b := true }
          ∧ record 0x07#7 { s.written with e := true }
          ∧ record 0x08#7 { s.written with p := true }
          ∧ record 0x09#7 { s.written with x := true }
          ∧ (∀ i : Fin 4, record (BitVec.ofNat 7 (0x10 + i.val)) { s.written with ch := s.written.ch.set i true })
          ∧ ∀ i : Fin 34, record (BitVec.ofNat 7 (0x20 + i.val)) { s.written with k := s.written.k.set i true })
    ∧ ∀ (i : Instr) (s : State), s.busy = false → ∃ t, exec i s = .next t
        ∧ t.written.rounds = s.written.rounds ∧ t.written.a = s.written.a ∧ t.written.b = s.written.b
        ∧ t.written.ch = s.written.ch
        ∧ (t.written.p = true ↔
            s.written.p = true ∨ i = .selp ∨ (∃ ti, i = .ldp ti) ∨ i = .delay ∨ i = .verify)
        ∧ (t.written.e = true ↔
            s.written.e = true ∨ i = .selp ∨ (∃ ti, i = .ldp ti) ∨ i = .calce ∨ i = .delay)
        ∧ (t.written.x = true ↔
            s.written.x = true ∨ i = .seed ∨ (∃ ki, i = .rndb ki) ∨ (∃ ki, i = .rndf ki) ∨ i = .delay
              ∨ i = .verify)
        ∧ ∀ j : Fin 34, t.written.k[j] = true ↔ s.written.k[j] = true ∨ i = .fillk ∨ i = .delay ∨ i = .verify

/-- R196, U4: a command that reads a register not written since the last reset still completes, raises no error, and
every register it writes, and OK for CHECK and VERIFY, holds a free value; the others keep theirs
(`CommandsWriteOnlyTheirRegisters`). The form of a free value, a draw that no earlier event used, is the model's
choice (log entries 3 and 20). -/
def Obligations.UnwrittenInputFreesTheResults : Prop :=
  ∀ (i : Instr) (s : State), s.busy = false → readsWritten s.written i = false →
    ∃ t, exec i s = .next t ∧ Completed s t
      ∧ (i = .mulmod ∨ i = .modpow ∨ i = .cube → freshDraw s t t.r)
      ∧ (i = .fillk ∨ i = .delay ∨ i = .verify → ∀ j : Fin 34, freshDraw s t t.k[j])
      ∧ (i = .selp ∨ i = .delay ∨ i = .verify → freshDraw s t t.plo)
      ∧ (i = .selp ∨ i = .calce ∨ i = .delay → freshDraw s t t.e)
      ∧ (i = .seed ∨ (∃ ki, i = .rndb ki) ∨ (∃ ki, i = .rndf ki) ∨ i = .delay ∨ i = .verify →
          freshDraw s t t.x)
      ∧ (if i = .check ∨ i = .verify then freshDraw s t (BitVec.ofBool t.ok) else t.ok = false)

/-! ### The engine -/

/-- R139, R203: a command issued by a CMD write and carried through by the engine's own steps, with nothing else
pending, ends where the command's Operation says: one event for the issue, then as many engine steps as R203 counts,
and the state is the one `exec` gives. It rests on the model's choices: the merged command (log entry 5), the engine
moving when nothing is pending (log entry 6), and the two runs drawing their free values from one counter at
completion (log entries 3, 10 and 20). -/
def Obligations.EngineStepsComposeToTheCommand : Prop :=
  ∀ (i : Instr) (s : State), s.busy = false → s.outstanding = none → s.inputs = [] →
    Sys2Proof.core.run (1 + stepsToComplete s.rounds.toNat i) { s with inputs := [.write 0x03#7 (encode i)] }
      = exec i s

/-- R119: seventeen engine steps from the start of stage FK fill K with the words of `schedule(CH)`, and the stage is
left: FIN for FILLK, SP for DELAY and VERIFY. -/
def Obligations.KeyControllerFillsTheSchedule : Prop :=
  ∀ (s : State) (cmd : Instr) (n : BitVec 32), cmd = .fillk ∨ cmd = .delay ∨ cmd = .verify →
    s.seq = .run cmd ⟨.fk, 0#5, 0#32, n, 0#5⟩ → s.outstanding = none →
    (engineRun 17 s).k = schedule Config.enc s.ch
      ∧ (engineRun 17 s).seq =
          .run cmd ⟨if cmd = .fillk then .fin else .sp, 17#5, 0#32, n, 0#5⟩
      ∧ (engineRun 17 s).x = s.x ∧ (engineRun 17 s).ch = s.ch

/-- R31, R48, R49, R192: presenting a request and answering it is the engine's FK step; while a request is in flight
the engine waits and presents no second one; an answer nobody waits for, as one after a reset, is discarded. The
split of the step into request and answer, and the engine's waiting, are read from those rules by inference (log
entry 7). -/
def Obligations.CipherPortSplitsTheKeyStep : Prop :=
  (∀ (s : State) (cmd : Instr) (ph : Phase), s.seq = .run cmd ph → ph.stage = .fk → s.outstanding = none →
      cipherAnswer (cipherRequest s) = engineStep s
        ∧ engineStep (cipherRequest s) = cipherRequest s
        ∧ cipherRequest (cipherRequest s) = cipherRequest s)
    ∧ ∀ s : State, cipherAnswer (resetBlock s) = resetBlock s

/-- R139, R164, R199: the completing step, of stage FIN or CK, clears BUSY, sets DONE and returns to IDLE. If every
register the command read was written (R196), FIN leaves every data register and OK, and CK leaves every data register
and writes OK by comparing the residues (R27). -/
def Obligations.CompletingStepEndsTheCommand : Prop :=
  ∀ (s : State) (cmd : Instr) (ph : Phase), s.seq = .run cmd ph →
    (ph.stage = .fin ∨ ph.stage = .ck → Completed s (engineStep s))
      ∧ (readsWritten s.written cmd = true →
          (ph.stage = .fin → SameData s (engineStep s) ∧ (engineStep s).ok = s.ok)
            ∧ (ph.stage = .ck → SameData s (engineStep s)
                ∧ ((engineStep s).ok = true ↔ s.x.toNat % s.p.toNat = s.k[33].toNat % s.p.toNat)))

/-- R28, R25 to R29, R31, R135, R136, R172: the invariant holds at reset. -/
def Obligations.ResetMeetsTheInvariant : Prop := State.reset.Inv

/-- R28, R25 to R29, R31, R135, R136, R172: every step, whatever the event, keeps the invariant: BUSY is 1 exactly
while a command is in progress, ERRCODE is 0 or a code that is raised, the counters and the key index are in their
places, and a request is in flight only in stage FK with that step's plaintext. -/
def Obligations.EveryStepKeepsTheInvariant : Prop :=
  ∀ s t : State, s.Inv → step s = .next t → t.Inv

/-- R119, R135, R137: at every moment of a DELAY, whatever the host does meanwhile, the registers hold what the walk
has computed so far: the schedule's first words, the selected prime and exponent, and the running value after `r` of
`n` rounds. -/
def Obligations.EveryStepKeepsDelayProgress : Prop :=
  ∀ s t : State, s.Inv → delayProgress s → step s = .next t → delayProgress t

/-! ### The arithmetic -/

/-- R80: one conditional subtraction reduces every 52-bit value modulo P; that it is the remainder is the spec's own
inference from R15. -/
def Obligations.CanonIsTheRemainder : Prop :=
  ∀ (v : Field) (plo : BitVec 32),
    canon v (modulus plo) = (if v ≥ modulus plo then v - modulus plo else v)
      ∧ (canon v (modulus plo)).toNat = v.toNat % (modulus plo).toNat
      ∧ canon v (modulus plo) < modulus plo

/-- R82: the repeated squaring computes `a ^ e mod p`, with `a ^ 0 = 1` for every `a`, 0 for `a = 0` and `e > 0`, and
the same value for `a` and `canon(a, p)`. -/
def Obligations.ModpowIsTheMathematicalPower : Prop :=
  ∀ (a e : Field) (plo : BitVec 32),
    (modpow a e (modulus plo)).toNat = a.toNat ^ e.toNat % (modulus plo).toNat
      ∧ modpow a e (modulus plo) < modulus plo
      ∧ modpow a 0#52 (modulus plo) = 1#52
      ∧ (e ≠ 0#52 → modpow 0#52 e (modulus plo) = 0#52)
      ∧ modpow a e (modulus plo) = modpow (canon a (modulus plo)) e (modulus plo)

/-- R84: `mod64` is the remainder of the 64-bit word, its quotient at most 4096 (the spec's own inference); on a
52-bit value it is `canon`. -/
def Obligations.Mod64IsTheRemainder : Prop :=
  ∀ (v : Word) (x : Field) (plo : BitVec 32),
    (mod64 v (modulus plo)).toNat = v.toNat % (modulus plo).toNat
      ∧ v.toNat / (modulus plo).toNat ≤ 4096
      ∧ mod64 (x.setWidth 64) (modulus plo) = canon x (modulus plo)

/-- R85: the key mixing is subtraction and addition modulo `2^52`, uses bits 51:0 of the key only, and each undoes
the other; the last two are the spec's own inferences. -/
def Obligations.KeyMixingIsModularAndInvertible : Prop :=
  ∀ (x : Field) (k : Word),
    (sub52 x k).toNat = (x.toNat + 2 ^ 52 - k.toNat % 2 ^ 52) % 2 ^ 52
      ∧ ((sub52 x k).toNat : Int) = ((x.toNat : Int) - k.toNat) % 2 ^ 52
      ∧ (add52 x k).toNat = (x.toNat + k.toNat) % 2 ^ 52
      ∧ (add52 x k).toNat = (x.toNat + k.toNat % 2 ^ 52) % 2 ^ 52
      ∧ add52 (sub52 x k) k = x ∧ sub52 (add52 x k) k = x

/-- R110: the two cipher inputs carry the challenge bytes in order, byte `i` of a half at byte `i` of its block. -/
def Obligations.CipherInputsAreTheChallengeHalves : Prop :=
  ∀ (ch : Challenge) (i : Fin 16),
    in0 ch = ch[1] ++ ch[0] ∧ in1 ch = ch[3] ++ ch[2]
      ∧ blockByte (in0 ch) i = challengeByte ch ⟨i.val, by omega⟩
      ∧ blockByte (in1 ch) i = challengeByte ch ⟨16 + i.val, by omega⟩

/-- R86, R87: the integer double-and-reduce multiplier returns `a * b mod p` for all 52-bit operands, whatever its
registers held. -/
def Obligations.IntegerMultiplierIsExact : Prop :=
  ∀ (a b : Field) (plo : BitVec 32) (h : Hidden),
    mulmodInt a b (modulus plo) h = mulmod a b (modulus plo)

/-- R90 item 4: the truncated quotient estimate of the FPU-assisted multiplier is within one of the true quotient.
It rests on the binary64 format and its rounding, PRESUMED (log entry 12, the spec's G1). -/
def Obligations.QuotientEstimateIsWithinOne : Prop :=
  ∀ (a b : Field) (plo : BitVec 32) (h : Hidden),
    let f := fpuMultiply a b (modulus plo) h
    let q := f.ma.toNat * f.mb.toNat / (modulus plo).toNat
    q ≤ f.qi.toNat + 1 ∧ f.qi.toNat ≤ q + 1

/-- R89, R90: the FPU-assisted multiplier, with its binary64 rounding, returns `a * b mod p` for all 52-bit operands,
whatever its registers held; so the two variants agree (R91). The binary64 format is PRESUMED (log entry 12, the
spec's G1). -/
def Obligations.FpuMultiplierIsExact : Prop :=
  ∀ (a b : Field) (plo : BitVec 32) (h : Hidden),
    mulmodFpu a b (modulus plo) h = mulmod a b (modulus plo)
      ∧ mulmodFpu a b (modulus plo) h = mulmodInt a b (modulus plo) h

/-- R92, R93: before iteration `I` of the pipeline, of either variant, BASE is `a ^ (2 ^ I) mod p` and ACC is `a ^
(e mod 2 ^ I) mod p`; after the 52 iterations ACC is `modpow(a, e, p)`. For the FPU-assisted variant it rests on the
binary64 format, PRESUMED (log entry 12). -/
def Obligations.PipelineComputesThePower : Prop :=
  ∀ (v : Variant) (a e : Field) (plo : BitVec 32) (h : Hidden),
    (∀ I : Nat, I ≤ 52 →
        let g := pipeRun v (modulus plo) I (pipeStart a e (modulus plo) h)
        g.base.toNat = a.toNat ^ (2 ^ I) % (modulus plo).toNat
          ∧ g.acc.toNat = a.toNat ^ (e.toNat % 2 ^ I) % (modulus plo).toNat
          ∧ g.i.toNat = I)
      ∧ (pipeline v a e (modulus plo) h).acc = modpow a e (modulus plo)

/-! ### The permutation -/

/-- R140, items 1 to 4, which the spec marks as derived: under `H(p, e)`, `p` prime, `p mod 3 = 2`, `e = (2 p - 1) /
3`, cube and power undo each other; a forward round undoes a backward one exactly when the difference was below `p`,
and otherwise gives `x - p mod 2^52`, not `x`; a backward round undoes a forward one up to `canon`. -/
def Obligations.RoundsInvertEachOther : Prop :=
  ∀ (plo : BitVec 32) (x : Field) (k : Word),
    let p := modulus plo
    let e := exponentOf p
    p.toNat.Prime → p.toNat % 3 = 2 →
      (cube3 (modpow x e p) p).toNat = x.toNat % p.toNat
        ∧ (modpow (cube3 x p) e p).toNat = x.toNat % p.toNat
        ∧ (sub52 x k < p → fwd (bwd x k e p) k p = x)
        ∧ (p ≤ sub52 x k → fwd (bwd x k e p) k p = x - p ∧ fwd (bwd x k e p) k p ≠ x)
        ∧ (x < p → bwd (fwd x k p) k e p = x)
        ∧ (p ≤ x → bwd (fwd x k p) k e p = x - p)

/-- R141: for any cipher, table, challenge and round count, if the selected modulus is a prime congruent to 5 modulo
6 and every backward round's difference is below it, the forward walk from the proof passes back through the states
of the backward walk and the verification succeeds. -/
def Obligations.RoundTripUnderTheSideCondition : Prop :=
  ∀ (enc : Block → Block) (table : BitVec 10 → BitVec 32) (ch : Challenge) (n : Nat),
    let k := schedule enc ch
    let p := selectedModulus table k
    let e := exponentOf p
    modulusOk p → (∀ r, r < n → differenceBelow k e p n r (seedOf k p)) →
      (∀ r, r ≤ n →
          forwAfter k p r (delayFn enc table ch n) = backAfter k e p n (n - r) (seedOf k p))
        ∧ verifyFn enc table ch n (delayFn enc table ch n) = true

/-- R141: when round 0 of the backward walk is the only one whose difference is not below the modulus, the
verification of its proof fails. -/
def Obligations.RoundZeroOffenderIsRejected : Prop :=
  ∀ (enc : Block → Block) (table : BitVec 10 → BitVec 32) (ch : Challenge) (n : Nat),
    let k := schedule enc ch
    let p := selectedModulus table k
    let e := exponentOf p
    modulusOk p → 0 < n → ¬ differenceBelow k e p n 0 (seedOf k p) →
      (∀ r, 0 < r → r < n → differenceBelow k e p n r (seedOf k p)) →
      verifyFn enc table ch n (delayFn enc table ch n) = false
end

