-- ==== Sys2Proof/Laws/Field.lean ====
section
/-! SUPPORT. The small lemmas of the field arithmetic: the modulus in its range, the remainder functions as natural
numbers, and the walks' equations. -/

namespace Sys2Proof.Machine

/-- R15: the fixed upper bits put every P at `2^52 - 2^32 + PLO`. -/
theorem toNat_modulus (plo : BitVec 32) : (modulus plo).toNat = 2 ^ 52 - 2 ^ 32 + plo.toNat := by
  rw [modulus, BitVec.toNat_append, ← Nat.shiftLeft_add_eq_or_of_lt plo.isLt]
  simp

theorem modulus_pos (plo : BitVec 32) : 0 < (modulus plo).toNat := by
  rw [toNat_modulus]
  omega

theorem modulus_lower (plo : BitVec 32) : 2 ^ 52 - 2 ^ 32 ≤ (modulus plo).toNat := by
  rw [toNat_modulus]
  omega

/-- R15: "every 52-bit value `v` satisfies `v < 2*P`". -/
theorem lt_two_modulus (v : Field) (plo : BitVec 32) : v.toNat < 2 * (modulus plo).toNat := by
  have := v.isLt
  have := modulus_lower plo
  omega

theorem toNat_ofNat_mod (n : Nat) (p : Field) (hp : 0 < p.toNat) :
    (BitVec.ofNat 52 (n % p.toNat)).toNat = n % p.toNat := by
  have h1 := Nat.mod_lt n hp
  have h2 := p.isLt
  rw [BitVec.toNat_ofNat, Nat.mod_eq_of_lt (by omega)]

theorem toNat_mulmod (a b p : Field) (hp : 0 < p.toNat) : (mulmod a b p).toNat = a.toNat * b.toNat % p.toNat :=
  toNat_ofNat_mod _ _ hp

theorem toNat_mod64 (v : Word) (p : Field) (hp : 0 < p.toNat) : (mod64 v p).toNat = v.toNat % p.toNat :=
  toNat_ofNat_mod _ _ hp

theorem backAfter_zero (k : Keys) (e p : Field) (n : Nat) (x : Field) : backAfter k e p n 0 x = x := rfl

theorem backAfter_succ (k : Keys) (e p : Field) (n r : Nat) (x : Field) :
    backAfter k e p n (r + 1) x = bwd (backAfter k e p n r x) (roundKey k (n - 1 - r)) e p := rfl

theorem forwAfter_zero (k : Keys) (p : Field) (x : Field) : forwAfter k p 0 x = x := rfl

theorem forwAfter_succ (k : Keys) (p : Field) (r : Nat) (x : Field) :
    forwAfter k p (r + 1) x = fwd (forwAfter k p r x) (roundKey k r) p := rfl

theorem keyBlock_chain (enc : Block → Block) (ch : Challenge) (j : Nat) :
    keyBlock enc ch (j + 2) = enc (keyBlock enc ch (j + 1)) := rfl

theorem getElem_schedule (enc : Block → Block) (ch : Challenge) (i : Nat) (h : i < 34) :
    (schedule enc ch)[i] = keyWord enc ch i := by
  simp [schedule]

end Sys2Proof.Machine
end

