-- ==== Sys2Proof/Laws/State.lean ====
section
/-! SUPPORT. One lemma per field per shared update of State, so that no later proof unfolds a record update. -/

namespace Sys2Proof.Machine

@[simp] theorem raiseErr_ie (c : ErrCode) (s : State) : (raiseErr c s).ie = s.ie := rfl
@[simp] theorem raiseErr_busy (c : ErrCode) (s : State) : (raiseErr c s).busy = s.busy := rfl
@[simp] theorem raiseErr_done (c : ErrCode) (s : State) : (raiseErr c s).done = s.done := rfl
@[simp] theorem raiseErr_ok (c : ErrCode) (s : State) : (raiseErr c s).ok = s.ok := rfl
@[simp] theorem raiseErr_err (c : ErrCode) (s : State) : (raiseErr c s).err = true := rfl
@[simp] theorem raiseErr_errcode (c : ErrCode) (s : State) : (raiseErr c s).errcode = if s.err then s.errcode else errNumber c := rfl
@[simp] theorem raiseErr_rounds (c : ErrCode) (s : State) : (raiseErr c s).rounds = s.rounds := rfl
@[simp] theorem raiseErr_a (c : ErrCode) (s : State) : (raiseErr c s).a = s.a := rfl
@[simp] theorem raiseErr_b (c : ErrCode) (s : State) : (raiseErr c s).b = s.b := rfl
@[simp] theorem raiseErr_e (c : ErrCode) (s : State) : (raiseErr c s).e = s.e := rfl
@[simp] theorem raiseErr_plo (c : ErrCode) (s : State) : (raiseErr c s).plo = s.plo := rfl
@[simp] theorem raiseErr_x (c : ErrCode) (s : State) : (raiseErr c s).x = s.x := rfl
@[simp] theorem raiseErr_r (c : ErrCode) (s : State) : (raiseErr c s).r = s.r := rfl
@[simp] theorem raiseErr_ch (c : ErrCode) (s : State) : (raiseErr c s).ch = s.ch := rfl
@[simp] theorem raiseErr_k (c : ErrCode) (s : State) : (raiseErr c s).k = s.k := rfl
@[simp] theorem raiseErr_seq (c : ErrCode) (s : State) : (raiseErr c s).seq = s.seq := rfl
@[simp] theorem raiseErr_outstanding (c : ErrCode) (s : State) : (raiseErr c s).outstanding = s.outstanding := rfl
@[simp] theorem raiseErr_hidden (c : ErrCode) (s : State) : (raiseErr c s).hidden = s.hidden := rfl
@[simp] theorem raiseErr_inputs (c : ErrCode) (s : State) : (raiseErr c s).inputs = s.inputs := rfl
@[simp] theorem raiseErr_rdata (c : ErrCode) (s : State) : (raiseErr c s).rdata = s.rdata := rfl
@[simp] theorem raiseErr_draws (c : ErrCode) (s : State) : (raiseErr c s).draws = s.draws := rfl

@[simp] theorem clearErr_ie (s : State) : (clearErr s).ie = s.ie := rfl
@[simp] theorem clearErr_busy (s : State) : (clearErr s).busy = s.busy := rfl
@[simp] theorem clearErr_done (s : State) : (clearErr s).done = s.done := rfl
@[simp] theorem clearErr_ok (s : State) : (clearErr s).ok = s.ok := rfl
@[simp] theorem clearErr_err (s : State) : (clearErr s).err = false := rfl
@[simp] theorem clearErr_errcode (s : State) : (clearErr s).errcode = 0#4 := rfl
@[simp] theorem clearErr_rounds (s : State) : (clearErr s).rounds = s.rounds := rfl
@[simp] theorem clearErr_a (s : State) : (clearErr s).a = s.a := rfl
@[simp] theorem clearErr_b (s : State) : (clearErr s).b = s.b := rfl
@[simp] theorem clearErr_e (s : State) : (clearErr s).e = s.e := rfl
@[simp] theorem clearErr_plo (s : State) : (clearErr s).plo = s.plo := rfl
@[simp] theorem clearErr_x (s : State) : (clearErr s).x = s.x := rfl
@[simp] theorem clearErr_r (s : State) : (clearErr s).r = s.r := rfl
@[simp] theorem clearErr_ch (s : State) : (clearErr s).ch = s.ch := rfl
@[simp] theorem clearErr_k (s : State) : (clearErr s).k = s.k := rfl
@[simp] theorem clearErr_seq (s : State) : (clearErr s).seq = s.seq := rfl
@[simp] theorem clearErr_outstanding (s : State) : (clearErr s).outstanding = s.outstanding := rfl
@[simp] theorem clearErr_hidden (s : State) : (clearErr s).hidden = s.hidden := rfl
@[simp] theorem clearErr_inputs (s : State) : (clearErr s).inputs = s.inputs := rfl
@[simp] theorem clearErr_rdata (s : State) : (clearErr s).rdata = s.rdata := rfl
@[simp] theorem clearErr_draws (s : State) : (clearErr s).draws = s.draws := rfl

@[simp] theorem accept_ie (i : Instr) (s : State) : (accept i s).ie = s.ie := rfl
@[simp] theorem accept_busy (i : Instr) (s : State) : (accept i s).busy = true := rfl
@[simp] theorem accept_done (i : Instr) (s : State) : (accept i s).done = false := rfl
@[simp] theorem accept_ok (i : Instr) (s : State) : (accept i s).ok = false := rfl
@[simp] theorem accept_err (i : Instr) (s : State) : (accept i s).err = s.err := rfl
@[simp] theorem accept_errcode (i : Instr) (s : State) : (accept i s).errcode = s.errcode := rfl
@[simp] theorem accept_rounds (i : Instr) (s : State) : (accept i s).rounds = s.rounds := rfl
@[simp] theorem accept_a (i : Instr) (s : State) : (accept i s).a = s.a := rfl
@[simp] theorem accept_b (i : Instr) (s : State) : (accept i s).b = s.b := rfl
@[simp] theorem accept_e (i : Instr) (s : State) : (accept i s).e = s.e := rfl
@[simp] theorem accept_plo (i : Instr) (s : State) : (accept i s).plo = s.plo := rfl
@[simp] theorem accept_x (i : Instr) (s : State) : (accept i s).x = s.x := rfl
@[simp] theorem accept_r (i : Instr) (s : State) : (accept i s).r = s.r := rfl
@[simp] theorem accept_ch (i : Instr) (s : State) : (accept i s).ch = s.ch := rfl
@[simp] theorem accept_k (i : Instr) (s : State) : (accept i s).k = s.k := rfl
@[simp] theorem accept_seq (i : Instr) (s : State) : (accept i s).seq = .run i (firstPhase i s.rounds) := rfl
@[simp] theorem accept_outstanding (i : Instr) (s : State) : (accept i s).outstanding = s.outstanding := rfl
@[simp] theorem accept_hidden (i : Instr) (s : State) : (accept i s).hidden = s.hidden := rfl
@[simp] theorem accept_inputs (i : Instr) (s : State) : (accept i s).inputs = s.inputs := rfl
@[simp] theorem accept_rdata (i : Instr) (s : State) : (accept i s).rdata = s.rdata := rfl
@[simp] theorem accept_draws (i : Instr) (s : State) : (accept i s).draws = s.draws := rfl

@[simp] theorem complete_ie (i : Instr) (s : State) : (complete i s).ie = s.ie := rfl
@[simp] theorem complete_busy (i : Instr) (s : State) : (complete i s).busy = false := rfl
@[simp] theorem complete_done (i : Instr) (s : State) : (complete i s).done = true := rfl
@[simp] theorem complete_ok (i : Instr) (s : State) : (complete i s).ok =
    if !readsWritten s.written i && (outputsOf i).ok then (Config.draw (s.draws + 17))[0] else s.ok := rfl
@[simp] theorem complete_err (i : Instr) (s : State) : (complete i s).err = s.err := rfl
@[simp] theorem complete_errcode (i : Instr) (s : State) : (complete i s).errcode = s.errcode := rfl
@[simp] theorem complete_rounds (i : Instr) (s : State) : (complete i s).rounds = s.rounds := rfl
@[simp] theorem complete_a (i : Instr) (s : State) : (complete i s).a = s.a := rfl
@[simp] theorem complete_b (i : Instr) (s : State) : (complete i s).b = s.b := rfl
@[simp] theorem complete_e (i : Instr) (s : State) : (complete i s).e =
    if !readsWritten s.written i && (outputsOf i).e then drawn 52 (s.draws + 15) else s.e := rfl
@[simp] theorem complete_plo (i : Instr) (s : State) : (complete i s).plo =
    if !readsWritten s.written i && (outputsOf i).p then drawn 32 (s.draws + 14) else s.plo := rfl
@[simp] theorem complete_x (i : Instr) (s : State) : (complete i s).x =
    if !readsWritten s.written i && (outputsOf i).x then drawn 52 (s.draws + 16) else s.x := rfl
@[simp] theorem complete_r (i : Instr) (s : State) : (complete i s).r =
    if !readsWritten s.written i && (outputsOf i).r then drawn 52 (s.draws + 13) else s.r := rfl
@[simp] theorem complete_ch (i : Instr) (s : State) : (complete i s).ch = s.ch := rfl
@[simp] theorem complete_k (i : Instr) (s : State) : (complete i s).k =
    if !readsWritten s.written i && (outputsOf i).k then Vector.ofFn fun t => drawn 64 (s.draws + 18 + t.val) else s.k := rfl
@[simp] theorem complete_seq (i : Instr) (s : State) : (complete i s).seq = .idle := rfl
@[simp] theorem complete_outstanding (i : Instr) (s : State) : (complete i s).outstanding = s.outstanding := rfl
@[simp] theorem complete_hidden (i : Instr) (s : State) : (complete i s).hidden = Hidden.unspecified s.draws := rfl
@[simp] theorem complete_inputs (i : Instr) (s : State) : (complete i s).inputs = s.inputs := rfl
@[simp] theorem complete_rdata (i : Instr) (s : State) : (complete i s).rdata = s.rdata := rfl
@[simp] theorem complete_draws (i : Instr) (s : State) : (complete i s).draws =
    s.draws + drawsPerCompletion := rfl

@[simp] theorem loadPrime_ie (i : BitVec 10) (s : State) : (loadPrime i s).ie = s.ie := rfl
@[simp] theorem loadPrime_busy (i : BitVec 10) (s : State) : (loadPrime i s).busy = s.busy := rfl
@[simp] theorem loadPrime_done (i : BitVec 10) (s : State) : (loadPrime i s).done = s.done := rfl
@[simp] theorem loadPrime_ok (i : BitVec 10) (s : State) : (loadPrime i s).ok = s.ok := rfl
@[simp] theorem loadPrime_err (i : BitVec 10) (s : State) : (loadPrime i s).err = s.err := rfl
@[simp] theorem loadPrime_errcode (i : BitVec 10) (s : State) : (loadPrime i s).errcode = s.errcode := rfl
@[simp] theorem loadPrime_rounds (i : BitVec 10) (s : State) : (loadPrime i s).rounds = s.rounds := rfl
@[simp] theorem loadPrime_a (i : BitVec 10) (s : State) : (loadPrime i s).a = s.a := rfl
@[simp] theorem loadPrime_b (i : BitVec 10) (s : State) : (loadPrime i s).b = s.b := rfl
@[simp] theorem loadPrime_e (i : BitVec 10) (s : State) : (loadPrime i s).e = exponentOf (modulus (Config.primeTable i)) := rfl
@[simp] theorem loadPrime_plo (i : BitVec 10) (s : State) : (loadPrime i s).plo = Config.primeTable i := rfl
@[simp] theorem loadPrime_x (i : BitVec 10) (s : State) : (loadPrime i s).x = s.x := rfl
@[simp] theorem loadPrime_r (i : BitVec 10) (s : State) : (loadPrime i s).r = s.r := rfl
@[simp] theorem loadPrime_ch (i : BitVec 10) (s : State) : (loadPrime i s).ch = s.ch := rfl
@[simp] theorem loadPrime_k (i : BitVec 10) (s : State) : (loadPrime i s).k = s.k := rfl
@[simp] theorem loadPrime_seq (i : BitVec 10) (s : State) : (loadPrime i s).seq = s.seq := rfl
@[simp] theorem loadPrime_outstanding (i : BitVec 10) (s : State) : (loadPrime i s).outstanding = s.outstanding := rfl
@[simp] theorem loadPrime_hidden (i : BitVec 10) (s : State) : (loadPrime i s).hidden = s.hidden := rfl
@[simp] theorem loadPrime_inputs (i : BitVec 10) (s : State) : (loadPrime i s).inputs = s.inputs := rfl
@[simp] theorem loadPrime_rdata (i : BitVec 10) (s : State) : (loadPrime i s).rdata = s.rdata := rfl
@[simp] theorem loadPrime_draws (i : BitVec 10) (s : State) : (loadPrime i s).draws = s.draws := rfl

@[simp] theorem resetBlock_ie (s : State) : (resetBlock s).ie = false := rfl
@[simp] theorem resetBlock_busy (s : State) : (resetBlock s).busy = false := rfl
@[simp] theorem resetBlock_done (s : State) : (resetBlock s).done = false := rfl
@[simp] theorem resetBlock_ok (s : State) : (resetBlock s).ok = false := rfl
@[simp] theorem resetBlock_err (s : State) : (resetBlock s).err = false := rfl
@[simp] theorem resetBlock_errcode (s : State) : (resetBlock s).errcode = 0#4 := rfl
@[simp] theorem resetBlock_seq (s : State) : (resetBlock s).seq = .idle := rfl
@[simp] theorem resetBlock_outstanding (s : State) : (resetBlock s).outstanding = none := rfl
@[simp] theorem resetBlock_inputs (s : State) : (resetBlock s).inputs = s.inputs := rfl
@[simp] theorem resetBlock_rdata (s : State) : (resetBlock s).rdata = s.rdata := rfl
@[simp] theorem resetBlock_draws (s : State) : (resetBlock s).draws = s.draws + drawsPerReset := rfl

@[simp] theorem raiseErr_written (c : ErrCode) (s : State) : (raiseErr c s).written = s.written := rfl
@[simp] theorem clearErr_written (s : State) : (clearErr s).written = s.written := rfl
@[simp] theorem accept_written (i : Instr) (s : State) : (accept i s).written = s.written := rfl
@[simp] theorem complete_written (i : Instr) (s : State) : (complete i s).written = markOutputs (outputsOf i) s.written := rfl
@[simp] theorem loadPrime_written (i : BitVec 10) (s : State) : (loadPrime i s).written = s.written := rfl
@[simp] theorem resetBlock_written (s : State) : (resetBlock s).written = Written.none := rfl

@[simp] theorem markOutputs_rounds (o : Outputs) (w : Written) : (markOutputs o w).rounds = w.rounds := rfl
@[simp] theorem markOutputs_a (o : Outputs) (w : Written) : (markOutputs o w).a = w.a := rfl
@[simp] theorem markOutputs_b (o : Outputs) (w : Written) : (markOutputs o w).b = w.b := rfl
@[simp] theorem markOutputs_e (o : Outputs) (w : Written) : (markOutputs o w).e = (w.e || o.e) := rfl
@[simp] theorem markOutputs_p (o : Outputs) (w : Written) : (markOutputs o w).p = (w.p || o.p) := rfl
@[simp] theorem markOutputs_x (o : Outputs) (w : Written) : (markOutputs o w).x = (w.x || o.x) := rfl
@[simp] theorem markOutputs_ch (o : Outputs) (w : Written) : (markOutputs o w).ch = w.ch := rfl
@[simp] theorem markOutputs_k (o : Outputs) (w : Written) :
    (markOutputs o w).k = if o.k then Vector.replicate 34 true else w.k := rfl

@[simp] theorem raiseErr_p (c : ErrCode) (s : State) : (raiseErr c s).p = s.p := rfl
@[simp] theorem accept_p (i : Instr) (s : State) : (accept i s).p = s.p := rfl
@[simp] theorem loadPrime_p (i : BitVec 10) (s : State) : (loadPrime i s).p = modulus (Config.primeTable i) := rfl

end Sys2Proof.Machine
end

