-- ==== Sys2Proof/Laws/Ops.lean ====
section
/-! SUPPORT. What each shared operation can do, said once: the lemmas a proof cites in place of unfolding. -/

namespace Sys2Proof.Machine

/-! ### Commands as one transition -/

theorem runCommand_of_busy {i : Instr} {f : State → State} {s : State} (h : s.busy = true) :
    runCommand i f s = .next (raiseErr .busyCommand s) := by
  simp [runCommand, h]

theorem runCommand_of_idle {i : Instr} {f : State → State} {s : State} (h : s.busy = false) :
    runCommand i f s = .next (complete i (f (accept i s))) := by
  simp [runCommand, h]

theorem runCommand_cases {i : Instr} {f : State → State} {s t : State} (h : runCommand i f s = .next t) :
    (s.busy = true ∧ t = raiseErr .busyCommand s)
      ∨ (s.busy = false ∧ t = complete i (f (accept i s))) := by
  cases hb : s.busy
  · rw [runCommand_of_idle hb] at h
    cases h
    exact .inr ⟨rfl, rfl⟩
  · rw [runCommand_of_busy hb] at h
    cases h
    exact .inl ⟨rfl, rfl⟩

/-- R196: with every register it reads written, a command ends with the results it computed. -/
theorem complete_of_written {i : Instr} {s : State} (h : readsWritten s.written i = true) :
    complete i s =
      { s with
        busy := false
        done := true
        seq := .idle
        hidden := Hidden.unspecified s.draws
        written := markOutputs (outputsOf i) s.written
        draws := s.draws + drawsPerCompletion } := by
  simp [complete, h]

/-- R196, U4: with a register it reads unwritten, every result of a command is a free value. -/
theorem complete_of_unwritten {i : Instr} {s : State} (h : readsWritten s.written i = false) :
    complete i s =
      { s with
        busy := false
        done := true
        seq := .idle
        hidden := Hidden.unspecified s.draws
        r := if (outputsOf i).r then drawn 52 (s.draws + 13) else s.r
        plo := if (outputsOf i).p then drawn 32 (s.draws + 14) else s.plo
        e := if (outputsOf i).e then drawn 52 (s.draws + 15) else s.e
        x := if (outputsOf i).x then drawn 52 (s.draws + 16) else s.x
        ok := if (outputsOf i).ok then (Config.draw (s.draws + 17))[0] else s.ok
        k := if (outputsOf i).k then Vector.ofFn fun t => drawn 64 (s.draws + 18 + t.val) else s.k
        written := markOutputs (outputsOf i) s.written
        draws := s.draws + drawsPerCompletion } := by
  simp [complete, h]

theorem challengeWritten_iff (w : Written) : challengeWritten w = true ↔ ∀ i : Fin 4, w.ch[i] = true := by
  simp [challengeWritten, Fin.forall_fin_succ, and_assoc]

/-! ### Command issue -/

theorem issueWith_of_busy {run : Instr → State → Host.Outcome State Fault Refusal} {w : Word} {s : State}
    (h : s.busy = true) : issueWith run w s = .next (raiseErr .busyCommand s) := by
  simp [issueWith, h]

theorem issueWith_of_decoded {run : Instr → State → Host.Outcome State Fault Refusal} {w : Word} {s : State}
    {i : Instr} (h : s.busy = false) (hd : decode w = .ok i) : issueWith run w s = run i s := by
  simp [issueWith, h, hd]

theorem issueWith_of_malformed {run : Instr → State → Host.Outcome State Fault Refusal} {w : Word} {s : State}
    {d : DecodeError} (h : s.busy = false) (hd : decode w = .error d) :
    issueWith run w s = .next (raiseErr (decodeErrCode d) s) := by
  simp [issueWith, h, hd]

theorem issueWith_cases {run : Instr → State → Host.Outcome State Fault Refusal} {w : Word} {s t : State}
    (h : issueWith run w s = .next t) :
    (s.busy = true ∧ t = raiseErr .busyCommand s)
      ∨ (s.busy = false ∧ ∃ i, decode w = .ok i ∧ run i s = .next t)
      ∨ (s.busy = false ∧ ∃ d, decode w = .error d ∧ t = raiseErr (decodeErrCode d) s) := by
  cases hb : s.busy
  · cases hd : decode w with
    | ok i =>
      rw [issueWith_of_decoded hb hd] at h
      exact .inr (.inl ⟨rfl, i, rfl, h⟩)
    | error d =>
      rw [issueWith_of_malformed hb hd] at h
      cases h
      exact .inr (.inr ⟨rfl, d, rfl, rfl⟩)
  · rw [issueWith_of_busy hb] at h
    cases h
    exact .inl ⟨rfl, rfl⟩

/-! ### One step -/

theorem step_of_nil {s : State} (h : s.inputs = []) : step s = .next (ownTurn s) := by
  simp [step, h]

theorem step_of_cons {s : State} {ev : Event} {rest : List Event} (h : s.inputs = ev :: rest) :
    step s = handle exec { s with inputs := rest } ev := by
  simp [step, h]

theorem step_cases {s t : State} (h : step s = .next t) :
    (s.inputs = [] ∧ t = ownTurn s)
      ∨ ∃ ev rest, s.inputs = ev :: rest ∧ handle exec { s with inputs := rest } ev = .next t := by
  cases hi : s.inputs with
  | nil =>
    rw [step_of_nil hi] at h
    cases h
    exact .inl ⟨rfl, rfl⟩
  | cons ev rest =>
    rw [step_of_cons hi] at h
    exact .inr ⟨ev, rest, rfl, h⟩

/-! ### Register writes -/

theorem writeOwned_of_busy {v : Word} {reg : Reg} {s : State} (h : s.busy = true) :
    writeOwned v reg s = raiseErr .busyWrite s := by
  simp [writeOwned, h]

theorem writeOwned_of_idle {v : Word} {reg : Reg} {s : State} (h : s.busy = false) :
    writeOwned v reg s = storeReg v s reg := by
  simp [writeOwned, h]

theorem regWrite_of_owned {n : RegNum} {v : Word} {s : State} (h : (regOf n).owned = true) (hr : regOf n ≠ .r) :
    regWrite n v s = .next (writeOwned v (regOf n) s) := by
  unfold regWrite
  cases hn : regOf n <;> simp_all [Reg.owned]

theorem regWrite_cases {n : RegNum} {v : Word} {s t : State} (h : regWrite n v s = .next t) :
    (regOf n = .ctrl ∧ t = writeCtrl v s)
      ∨ (regOf n = .status ∧ t = writeStatus v s)
      ∨ (regOf n = .cmd ∧ issue v s = .next t)
      ∨ ((regOf n = .id ∨ regOf n = .r ∨ regOf n = .reserved) ∧ t = raiseErr .badWrite s)
      ∨ ((regOf n).owned = true ∧ regOf n ≠ .r ∧ t = writeOwned v (regOf n) s) := by
  unfold regWrite at h
  cases hn : regOf n <;> simp [hn, Reg.owned] at h ⊢ <;> first | exact h.symm | exact h

theorem writeCtrl_of_reset {v : Word} {s : State} (h : v[1] = true) : writeCtrl v s = resetBlock s := by
  simp [writeCtrl, h]

theorem writeCtrl_of_enable {v : Word} {s : State} (h : v[1] = false) :
    writeCtrl v s = { s with ie := v[0] } := by
  simp [writeCtrl, h]

theorem writeStatus_eq (v : Word) (s : State) :
    writeStatus v s =
      { s with
        done := if v[1] then false else s.done
        err := if v[3] then false else s.err
        errcode := if v[3] then 0#4 else s.errcode } := by
  cases h1 : v[1] <;> cases h3 : v[3] <;> simp [writeStatus, clearErr, h1, h3]

/-! ### Engine steps -/

theorem engineStep_of_idle {s : State} (h : s.seq = .idle) : engineStep s = s := by
  simp [engineStep, h]

theorem engineStep_of_run {s : State} {cmd : Instr} {ph : Phase} (h : s.seq = .run cmd ph) :
    engineStep s = phaseStep cmd ph s := by
  simp [engineStep, h]

theorem phaseStep_fk {cmd : Instr} {ph : Phase} {s : State} (h : ph.stage = .fk) (ho : s.outstanding = none) :
    phaseStep cmd ph s = fkAbsorb (Config.enc (fkPlaintext ph.j s)) cmd ph s := by
  simp [phaseStep, h, ho]

theorem phaseStep_fk_waiting {cmd : Instr} {ph : Phase} {s : State} {b : Block} (h : ph.stage = .fk)
    (ho : s.outstanding = some b) : phaseStep cmd ph s = s := by
  simp [phaseStep, h, ho]

theorem rbStep_of_done {cmd : Instr} {ph : Phase} {s : State} (h : ph.r = ph.n) :
    rbStep cmd ph s = { s with seq := .run cmd { ph with stage := .fin } } := by
  simp [rbStep, h]

theorem rbStep_of_round {cmd : Instr} {ph : Phase} {s : State} (h : ph.r ≠ ph.n) :
    rbStep cmd ph s =
      { s with
        x := bwd s.x (windowKey s.k ph.kn) s.e s.p
        hidden := backHidden s.x (windowKey s.k ph.kn) s.e s.p s.hidden
        seq := .run cmd { ph with r := ph.r + 1#32, kn := ph.kn - 1#5 } } := by
  simp [rbStep, h]

theorem rfStep_of_done {cmd : Instr} {ph : Phase} {s : State} (h : ph.r = ph.n) :
    rfStep cmd ph s = { s with seq := .run cmd { ph with stage := .ck } } := by
  simp [rfStep, h]

theorem rfStep_of_round {cmd : Instr} {ph : Phase} {s : State} (h : ph.r ≠ ph.n) :
    rfStep cmd ph s =
      { s with
        x := fwd s.x (windowKey s.k ph.kn) s.p
        hidden := forwHidden s.x s.p s.hidden
        seq := .run cmd { ph with r := ph.r + 1#32, kn := ph.kn + 1#5 } } := by
  simp [rfStep, h]

theorem engineRun_zero (s : State) : engineRun 0 s = s := rfl

theorem engineRun_succ (n : Nat) (s : State) : engineRun (n + 1) s = engineRun n (engineStep s) := rfl

theorem engineRun_add (m n : Nat) (s : State) : engineRun (m + n) s = engineRun n (engineRun m s) := by
  induction m generalizing s with
  | zero => simp [engineRun]
  | succ m ih => rw [Nat.succ_add, engineRun_succ, engineRun_succ, ih]

end Sys2Proof.Machine
end

