-- ==== Sys2Proof/Laws/PerInstr.lean ====
section
/-! SUPPORT. Statements made per instruction: one lemma per constructor of Instr. -/

namespace Sys2Proof.Laws

/-! ### The bits of an LDP word, field by field (format T of R60) -/

theorem getLsbD_encode_ldp (ti : BitVec 10) (i : Nat) : (encode (.ldp ti)).getLsbD i =
    if i < 8 then (0x22#8).getLsbD i else if i < 16 then false else ti.getLsbD (i - 16) := by
  unfold encode
  rw [BitVec.getLsbD_append, BitVec.getLsbD_append, BitVec.getLsbD_append]
  by_cases h1 : i < 8
  · simp [h1]
  · by_cases h2 : i < 16
    · simp [h1, h2, show i - 8 < 8 by omega]
    · have h3 : ¬ i - 8 < 8 := by omega
      simp only [h1, h2, h3, if_false, Nat.sub_sub]
      by_cases h4 : i - (8 + 8) < 10 <;> simp [h4]
      exact BitVec.getLsbD_of_ge ti (i - 16) (by omega)

theorem opField_encode_ldp (ti : BitVec 10) : opField (encode (.ldp ti)) = 0x22#8 := by
  apply BitVec.eq_of_getLsbD_eq
  intro i hi
  simp [opField, getLsbD_encode_ldp, hi]

theorem tiField_encode_ldp (ti : BitVec 10) : tiField (encode (.ldp ti)) = ti := by
  apply BitVec.eq_of_getLsbD_eq
  intro i hi
  simp [tiField, getLsbD_encode_ldp, hi, show ¬ (16 + i < 8) by omega]

theorem upperZero_encode_ldp (ti : BitVec 10) : (encode (.ldp ti)).extractLsb' 26 38 = 0#38 := by
  apply BitVec.eq_of_getLsbD_eq
  intro i hi
  simp [getLsbD_encode_ldp, show ¬ (26 + i < 8) by omega, show ¬ 26 + i < 16 by omega]
  intro; exact BitVec.getLsbD_of_ge _ _ (by omega)

theorem lowerZero_encode_ldp (ti : BitVec 10) : (encode (.ldp ti)).extractLsb' 8 8 = 0#8 := by
  apply BitVec.eq_of_getLsbD_eq
  intro i hi
  simp [getLsbD_encode_ldp, hi]
  omega

end Sys2Proof.Laws

namespace Sys2Proof.Laws.RoundTrip

/-- Decoding the word of an instruction gives the instruction back. -/
def Statement (i : Instr) : Prop := decode (encode i) = .ok i

theorem nop : Statement .nop := rfl
theorem mulmod : Statement .mulmod := rfl
theorem modpow : Statement .modpow := rfl
theorem cube : Statement .cube := rfl
theorem fillk : Statement .fillk := rfl
theorem selp : Statement .selp := rfl
theorem ldp (ti : BitVec 10) : Statement (.ldp ti) := by
  simp [Statement, decode, formatT, opField_encode_ldp, tiField_encode_ldp, upperZero_encode_ldp,
    lowerZero_encode_ldp]
theorem calce : Statement .calce := rfl
theorem seed : Statement .seed := rfl
theorem rndb (ki : BitVec 5) : Statement (.rndb ki) := by
  unfold Statement
  revert ki
  decide
theorem rndf (ki : BitVec 5) : Statement (.rndf ki) := by
  unfold Statement
  revert ki
  decide
theorem check : Statement .check := rfl
theorem delay : Statement .delay := rfl
theorem verify : Statement .verify := rfl

end Sys2Proof.Laws.RoundTrip
end

