-- ==== Sys2Proof/Tests/Slice0.lean ====
section
/-! SUPPORT. The model's own tests: words written out from the formats, the spec's test vectors (95_test_vectors.md),
and a witness for the hypotheses of every statement that has some. -/

namespace Sys2Proof.Tests.Slice0

open Sys2Proof Sys2Proof.Machine

/-! ### Fixtures of 95_test_vectors.md section 0 -/

/-- The toy cipher `ENC_T`. -/
def encT (v : Block) : Block :=
  (v ^^^ 0x0123456789ABCDEFFEDCBA9876543210#128) * 0x9E3779B97F4A7C15F39CC0605CEDC835#128
    + 0x0F1E2D3C4B5A69788796A5B4C3D2E1F0#128

/-- The toy table `TABLE_T`. -/
def tableT (i : BitVec 10) : BitVec 32 :=
  if i.toNat % 4 = 0 then 0xFFFFFFD1#32
  else if i.toNat % 4 = 1 then 0xFFFFFF71#32
  else if i.toNat % 4 = 2 then 0xFFFFFF53#32
  else 0xFFFFFF3B#32

/-- The prime of the vectors, `P = 0xFFFFFFFFFFFD1`. -/
def pT : Field := 0xFFFFFFFFFFFD1#52

/-- `E = (2P - 1) div 3` for that prime. -/
def eT : Field := 0xAAAAAAAAAAA8B#52

def zeroHidden : Hidden := Hidden.unspecified 0

/-- The record of a host that has written every register. -/
def allWritten : Written :=
  ⟨true, true, true, true, true, true, Vector.replicate 4 true, Vector.replicate 34 true⟩

/-- An idle block with `P` and `E` of the vectors, every register written since reset. -/
def idle : State := { State.reset with plo := 0xFFFFFFD1#32, e := eT, written := allWritten }

/-- The state an outcome leads to, if it is a next state. -/
def nextOf (o : Host.Outcome State Fault Refusal) : Option State :=
  match o with
  | .next s => some s
  | .fault _ => none
  | .refused _ => none

/-- The state after a command of the idle block. -/
def after (i : Instr) (s : State) : Option State := nextOf (exec i s)

/-! ### Every constructor's word, written out from the formats of R60 -/

theorem test_decode_nop : decode 0x0000000000000000#64 = .ok .nop := by decide
theorem test_decode_mulmod : decode 0x0000000000000010#64 = .ok .mulmod := by decide
theorem test_decode_modpow : decode 0x0000000000000011#64 = .ok .modpow := by decide
theorem test_decode_cube : decode 0x0000000000000012#64 = .ok .cube := by decide
theorem test_decode_fillk : decode 0x0000000000000020#64 = .ok .fillk := by decide
theorem test_decode_selp : decode 0x0000000000000021#64 = .ok .selp := by decide
theorem test_decode_ldp : decode 0x0000000000020022#64 = .ok (.ldp 2#10) := by decide
theorem test_decode_ldp_largest : decode 0x0000000003FF0022#64 = .ok (.ldp 1023#10) := by decide
theorem test_decode_calce : decode 0x0000000000000023#64 = .ok .calce := by decide
theorem test_decode_seed : decode 0x0000000000000024#64 = .ok .seed := by decide
theorem test_decode_rndb : decode 0x0000000000000130#64 = .ok (.rndb 1#5) := by decide
theorem test_decode_rndf : decode 0x0000000000001F31#64 = .ok (.rndf 31#5) := by decide
theorem test_decode_check : decode 0x0000000000000032#64 = .ok .check := by decide
theorem test_decode_delay : decode 0x0000000000000040#64 = .ok .delay := by decide
theorem test_decode_verify : decode 0x0000000000000041#64 = .ok .verify := by decide

/-! ### Ill-formed words are refused (program P4) -/

theorem test_illegal_opcode : decode 0x99#64 = .error .illegalOpcode := by decide
theorem test_illegal_before_reserved : decode 0x0100000000000099#64 = .error .illegalOpcode := by decide
theorem test_nop_reserved_bit : decode 0x0100#64 = .error .reservedField := by decide
theorem test_rndb_bit_13 : decode 0x2030#64 = .error .reservedField := by decide
theorem test_ldp_bit_8 : decode 0x0122#64 = .error .reservedField := by decide
theorem test_ldp_bit_26 : decode 0x04000022#64 = .error .reservedField := by decide
theorem test_wellformed_illegal : wordWellFormed 0x99#64 = false := by decide
theorem test_wellformed_reserved : wordWellFormed 0x2030#64 = false := by decide
theorem test_wellformed_ldp_bit_8 : wordWellFormed 0x0122#64 = false := by decide
theorem test_wellformed_good : wordWellFormed 0x0331#64 = true := by decide
theorem test_table_word : decodeTableWord 64 0x331 = some (.rndf 3#5) := by decide
theorem test_table_word_refused : decodeTableWord 64 0x2030 = none := by decide

/-! ### The host's two questions, on a few words: the first step after reset runs the decoded command -/

theorem test_fetch_rndf : step (State.reset.withFetchWord 64 0x331) = exec (.rndf 3#5) State.reset := by rfl
theorem test_fetch_delay : step (State.reset.withFetchWord 64 0x40) = exec .delay State.reset := by rfl
theorem test_fetch_delay_next : (nextOf (step (State.reset.withFetchWord 64 0x40))).isSome = true := by decide
theorem test_fetch_modpow_next : (nextOf (step (State.reset.withFetchWord 64 0x11))).isSome = true := by decide

/-! ### Vectors of section 2: arithmetic -/

/-- M13, through the command. -/
theorem test_mulmod_m13 :
    (after .mulmod { idle with a := 0x80D6126542209#52, b := 0xD4FF2F5B1935B#52 }).map (·.r)
      = some 0xE64CCB7D265C2#52 := by decide
/-- M7: both operands at or above P. -/
theorem test_mulmod_m7 :
    (after .mulmod { idle with a := 0xFFFFFFFFFFFFF#52, b := 0xFFFFFFFFFFFFF#52 }).map (·.r)
      = some 0x844#52 := by decide
/-- M22: a modulus that is not prime. -/
theorem test_mulmod_m22 :
    mulmod 0xFFFFFFFFFFFFF#52 0xFFFFFFFFFFFFF#52 (modulus 0#32) = 0xFFE00000001#52 := by decide
/-- M13 by the integer variant's algorithm. -/
theorem test_integer_multiplier_m13 :
    mulmodInt 0x80D6126542209#52 0xD4FF2F5B1935B#52 pT zeroHidden = 0xE64CCB7D265C2#52 := by decide +kernel
/-- M13, the off-by-one case, by the FPU-assisted variant's algorithm. -/
theorem test_fpu_multiplier_m13 :
    mulmodFpu 0x80D6126542209#52 0xD4FF2F5B1935B#52 pT zeroHidden = 0xE64CCB7D265C2#52 := by decide +kernel
/-- M13's column FT, `0x1.acc6d1354f239p+102`. -/
theorem test_fpu_product_m13 :
    (fpuMultiply 0x80D6126542209#52 0xD4FF2F5B1935B#52 pT zeroHidden).ft = 0x465ACC6D1354F239#64 := by
  decide +kernel
/-- M13's column FQ, `0x1.acc6d1354f288p+50`. -/
theorem test_fpu_quotient_m13 :
    (fpuMultiply 0x80D6126542209#52 0xD4FF2F5B1935B#52 pT zeroHidden).fq = 0x431ACC6D1354F288#64 := by
  decide +kernel
/-- M1's column S: a zero operand wraps the biased quotient. -/
theorem test_fpu_difference_m1 :
    (fpuMultiply 0#52 0x123456789ABCD#52 pT zeroHidden).s = 0x000FFFFFFFFFFFD1#64 := by decide +kernel
/-- X6. -/
theorem test_modpow_x6 :
    (after .modpow { idle with a := 2#52 }).map (·.r) = some 0xF33E96D8739FB#52 := by decide +kernel
/-- X1: `0^0 = 1`. -/
theorem test_modpow_x1 :
    (after .modpow { idle with a := 0#52, e := 0#52 }).map (·.r) = some 1#52 := by decide +kernel
/-- The trace of X5: BASE after iteration 6. -/
theorem test_pipeline_trace_x5 :
    (pipeRun .int pT 7 (pipeStart 2#52 0x34#52 pT zeroHidden)).base = 0x8A1000000#52 := by decide +kernel
/-- X5 through the pipeline of the FPU variant. -/
theorem test_pipeline_x5_fpu :
    (pipeline .fpu 2#52 0x34#52 pT zeroHidden).acc = 0x2F#52 := by decide +kernel
/-- U8. -/
theorem test_cube_u8 :
    (after .cube { idle with a := 0x123456789ABCD#52 }).map (·.r) = some 0xFD506EEE76E26#52 := by decide
/-- U6: an operand at or above P. -/
theorem test_cube_u6 :
    (after .cube { idle with a := 0xFFFFFFFFFFFFF#52 }).map (·.r) = some 0x17C38#52 := by decide
/-- S9: all 64 bits of K[33] are taken. -/
theorem test_seed_s9 :
    (after .seed { idle with k := idle.k.set 33 0xFFFFFFFFFFFFFFFF#64 }).map (·.x) = some 0x2EFFF#52 := by decide
/-- E1. -/
theorem test_calce_e1 : (after .calce { idle with e := 0#52 }).map (·.e) = some eT := by decide
/-- E5: the floor is taken when P is not 2 modulo 3. -/
theorem test_calce_e5 : (after .calce { idle with plo := 0#32 }).map (·.e) = some 0xAAAA9FFFFFFFF#52 := by decide

/-! ### Vectors of section 3: key derivation, with the fixtures as arguments -/

/-- F1, `K[32]`. -/
theorem test_schedule_f1 : (schedule encT #v[0, 0, 0, 0])[32] = 0x4DC150E8E3D791C0#64 := by decide +kernel
/-- F2, `K[2]`: the fold. -/
theorem test_schedule_f2 : (schedule encT #v[1, 0, 0, 0])[2] = 0x0CAD4FA0A3363835#64 := by decide +kernel
/-- F3, `K[33]`: byte packing. -/
theorem test_schedule_f3 :
    (schedule encT #v[0x0706050403020100, 0x0F0E0D0C0B0A0908, 0x1716151413121110, 0x1F1E1D1C1B1A1918])[33]
      = 0xB40C77D7D6F8995C#64 := by decide +kernel
/-- F4b: the index is the low ten bits of K[32]. -/
theorem test_prime_index_f4b :
    selectedModulus tableT (idle.k.set 32 0x05DB61236E4EA581#64) = 0xFFFFFFFFFFF71#52 := by decide
/-- SELP reads the table at that index. -/
theorem test_selp_index :
    (after .selp { idle with k := idle.k.set 32 0xFFFFFFFFFFFFFC00#64 }).map (·.plo)
      = some (Config.primeTable 0#10) := by rfl
/-- LDP reads the table at its immediate. -/
theorem test_ldp_index : (after (.ldp 2#10) idle).map (·.plo) = some (Config.primeTable 2#10) := by rfl
/-- FILLK's first word is the low half of the first cipher answer (R111). -/
theorem test_fillk_first_word :
    (after .fillk { idle with ch := #v[1, 2, 3, 4] }).map (fun t => t.k[0])
      = some ((Config.enc 0x00000000000000020000000000000001#128).extractLsb' 0 64) := by rfl

/-! ### Vectors of section 4 and 5: rounds and walks -/

/-- R3 of section 4.1. -/
theorem test_rndf_r3 :
    (after (.rndf 3#5)
        { idle with x := 0x123456789ABCD#52, k := idle.k.set 3 0xFEDCBA9876543210#64 }).map (·.x)
      = some 0xC8F9F653BA036#52 := by decide +kernel
/-- R7: key bits 63:52 have no effect. -/
theorem test_rndf_r7 :
    (after (.rndf 0#5) { idle with x := 3#52, k := idle.k.set 0 0xFFF0000000000005#64 }).map (·.x)
      = some 0x20#52 := by decide +kernel
/-- B3. -/
theorem test_rndb_b3 :
    (after (.rndb 0#5)
        { idle with x := 0x123456789ABCD#52, k := idle.k.set 0 0xFEDCBA9876543210#64 }).map (·.x)
      = some 0xD299CE3D83CC4#52 := by decide +kernel
/-- B1: a difference at or above P. -/
theorem test_rndb_b1 :
    (after (.rndb 0#5) { idle with x := 5#52, k := idle.k.set 0 7#64 }).map (·.x)
      = some 0xC7610120EDE73#52 := by decide +kernel
/-- K3: an X at or above P is reduced. -/
theorem test_check_k3 :
    (after .check { idle with x := 0xFFFFFFFFFFFD2#52, k := idle.k.set 33 1#64 }).map (·.ok) = some true := by
  decide
/-- K2. -/
theorem test_check_k2 :
    (after .check { idle with x := 0x9E8B10A75F5EE#52, k := idle.k.set 33 0xD679E8B10A738006#64 }).map (·.ok)
      = some false := by decide
/-- NOP ends with DONE only (R160): STATUS reads 0x2. -/
theorem test_nop_status : (after .nop idle).map statusWord = some 0x2#64 := by decide
/-- D5. -/
theorem test_delay_d5 : delayFn encT tableT #v[0, 0, 0, 0] 4 = 0xB4C3246F4808E#52 := by decide +kernel
/-- D10: another challenge, another prime. -/
theorem test_delay_d10 : delayFn encT tableT #v[1, 0, 0, 0] 4 = 0xBAB2DA4EB0B98#52 := by decide +kernel
/-- D8: the key window wraps. -/
theorem test_delay_d8 : delayFn encT tableT #v[0, 0, 0, 0] 33 = 0xEF7BEA225CB15#52 := by decide +kernel
/-- P3, step 1. -/
theorem test_verify_p3 : verifyFn encT tableT #v[0, 0, 0, 0] 4 0xB4C3246F4808E#52 = true := by decide +kernel
/-- T3: the proof of 4 rounds checked with 5. -/
theorem test_verify_t3 : verifyFn encT tableT #v[0, 0, 0, 0] 5 0xB4C3246F4808E#52 = false := by decide +kernel
/-- T4: the running value after a walk with another challenge. -/
theorem test_verify_t4 : verifyWalk encT tableT #v[1, 0, 0, 0] 4 0xB4C3246F4808E#52 = 0xFEF497C28481F#52 := by
  decide +kernel
/-- DELAY reads the cipher, the table and ROUNDS of the block. -/
theorem test_delay_command :
    (after .delay { idle with rounds := 2#32 }).map (·.x)
      = some (delayFn Config.enc Config.primeTable idle.ch 2) := by rfl
/-- VERIFY does not write E (90_conflicts.md C10). -/
theorem test_verify_keeps_e : (after .verify idle).map (·.e) = some eT := by rfl

/-! ### Interface errors (program P4) and the interrupt (P6), one event each -/

/-- The STATUS word after one event of a block. -/
def statusAfter (ev : Event) (s : State) : Option Word :=
  (nextOf (step { s with inputs := [ev] })).map statusWord

theorem test_err_illegal : statusAfter (.write 0x03#7 0x99#64) idle = some 0x18#64 := by decide
theorem test_err_first_code_stays :
    statusAfter (.write 0x03#7 0x100#64) { idle with err := true, errcode := 1#4 } = some 0x18#64 := by decide
theorem test_err_reserved : statusAfter (.write 0x03#7 0x2030#64) idle = some 0x28#64 := by decide
theorem test_err_clear :
    statusAfter (.write 0x02#7 0x8#64) { idle with err := true, errcode := 2#4 } = some 0x0#64 := by decide
theorem test_accept_busy : statusAfter (.write 0x03#7 0x40#64) { idle with ok := true } = some 0x1#64 := by decide
theorem test_err_busy_command :
    statusAfter (.write 0x03#7 0x0#64) (accept .delay idle) = some 0x39#64 := by decide
theorem test_err_class_before_busy :
    statusAfter (.write 0x00#7 0x0#64) (accept .delay idle) = some 0x59#64 := by decide
theorem test_soft_reset_status : statusAfter (.write 0x01#7 0x2#64) (accept .delay idle) = some 0x0#64 := by decide
theorem test_read_p :
    (nextOf (step { idle with inputs := [.read 0x08#7] })).map (·.rdata)
      = some (some 0x000FFFFFFFFFFFD1#64) := by decide
theorem test_write_x_drops_high_bits :
    (nextOf (step { idle with inputs := [.write 0x09#7 0x100B4C3246F4808E#64] })).map (·.x)
      = some 0xB4C3246F4808E#52 := by decide
theorem test_irq_level : ({ idle with done := true, ie := true } : State).irq = true := by decide

/-- A MULMOD accepted, then its two engine steps: R is written by the first, BUSY falls at the second. -/
theorem test_engine_mulmod :
    (let s := engineRun 2 (accept .mulmod { idle with a := 2#52, b := 3#52 })
     (s.r, s.busy, s.done)) = (6#52, false, true) := by decide

/-- The first backward round of a walk uses the key before last (R135): `n = 2` starts at `K[1]`. -/
theorem test_seed_stage_key_index :
    (sdStep .delay ⟨.sd, 17#5, 0#32, 2#32, 0#5⟩ idle).seq = .run .delay ⟨.rb, 17#5, 0#32, 2#32, 1#5⟩ := by decide

/-- `LDCH` of the bytes 00..1F (F3). -/
theorem test_challenge_word :
    challengeWord (Vector.ofFn fun i => BitVec.ofNat 8 i.val) 1 = 0x0F0E0D0C0B0A0908#64 := by decide

/-! ### Registers not written since the last reset (R196, U4) -/

/-- A host that wrote A = 0 and P but not B: MULMOD completes, and R is a free value, not 0 (R94). -/
theorem test_unwritten_mulmod :
    (after .mulmod { State.reset with a := 0#52, written := { Written.none with a := true, p := true } }).map
        (fun t => (t.r, t.done)) = some (drawn 52 71, true) := by rfl
/-- The same through the engine's steps. -/
theorem test_unwritten_mulmod_engine :
    (engineRun 2 (accept .mulmod
        { State.reset with a := 0#52, written := { Written.none with a := true, p := true } })).r
      = drawn 52 71 := by rfl
/-- DELAY with ROUNDS unwritten leaves no word of the schedule in K. -/
theorem test_unwritten_delay :
    (after .delay { idle with written := { allWritten with rounds := false } }).map (fun t => t.k[33])
      = some (drawn 64 109) := by rfl
/-- A command writes what the next one reads: CALCE after SELP has its P. -/
theorem test_selp_marks_prime :
    (after .selp { State.reset with written := { Written.none with k := Vector.replicate 34 true } }).map
        (fun t => readsWritten t.written .calce) = some true := by decide
/-- A host write of one K word marks that word alone. -/
theorem test_write_marks_k :
    (nextOf (step { State.reset with inputs := [.write 0x21#7 0#64] })).map
        (fun t => (t.written.k[1], t.written.k[2])) = some (true, false) := by decide
/-- A soft reset forgets what was written. -/
theorem test_soft_reset_forgets :
    (nextOf (step { idle with inputs := [.write 0x01#7 0x2#64] })).map (·.written) = some Written.none := by decide

/-! ### Witnesses: a state and operands that meet each statement's hypotheses together -/

/-- A state with one pending event. -/
def pending (ev : Event) (s : State) : State := { s with inputs := [ev] }

/-- A DELAY in stage FK of a block with nothing pending. -/
def running : State := accept .delay idle

theorem witness_idle_block : idle.busy = false ∧ idle.outstanding = none ∧ idle.inputs = [] := by decide
/-- The written registers each command's statement asks for, all of them at once. -/
theorem witness_inputs_written :
    idle.busy = false ∧ idle.written.a = true ∧ idle.written.b = true ∧ idle.written.e = true
      ∧ idle.written.p = true ∧ idle.written.x = true ∧ idle.written.rounds = true
      ∧ (∀ i : Fin 4, idle.written.ch[i] = true) ∧ ∀ i : Fin 34, idle.written.k[i] = true := by decide
/-- A block right after reset has none of a command's inputs, in every family that has some. -/
theorem witness_inputs_unwritten :
    State.reset.busy = false ∧ readsWritten State.reset.written .mulmod = false
      ∧ readsWritten State.reset.written .fillk = false ∧ readsWritten State.reset.written .calce = false
      ∧ readsWritten State.reset.written (.rndb 31#5) = false ∧ readsWritten State.reset.written .check = false
      ∧ readsWritten State.reset.written .verify = false := by decide
theorem witness_host_write_sets_err :
    ∃ t, step (pending (.write 0x03#7 0x99#64) idle) = .next t ∧ idle.err = false ∧ t.err = true := ⟨_, rfl, rfl, rfl⟩
theorem witness_step_runs_command :
    (pending (.command 0x0000000000000331#64) idle).inputs = [.command 0x0000000000000331#64]
      ∧ decode 0x0000000000000331#64 = .ok (.rndf 3#5) := by decide
theorem witness_issue_while_busy :
    (pending (.write 0x03#7 0x40#64) running).inputs = [.write 0x03#7 0x40#64]
      ∧ (pending (.write 0x03#7 0x40#64) running).busy = true := by decide
theorem witness_issue_illegal :
    idle.busy = false
      ∧ opcodeTable.all (fun row => row.pattern.setWidth 8 != (0x42#64 : Word).setWidth 8) = true := by decide
theorem witness_issue_reserved :
    idle.busy = false
      ∧ opcodeTable.any (fun row => row.pattern.setWidth 8 == (0x8000000000000041#64 : Word).setWidth 8) = true
      ∧ wordWellFormed 0x8000000000000041#64 = false := by decide
theorem witness_issue_accepted : idle.busy = false ∧ encode (.ldp 1023#10) = 0x03FF0022#64 := by decide
theorem witness_raise_both_ways :
    idle.err = false ∧ (raiseErr .badWrite idle).err = true := by decide
theorem witness_soft_reset : (0x3#64 : Word)[1] = true := by decide
theorem witness_status_write : (pending (.write 0x02#7 0xA#64) running).inputs = [.write 0x02#7 0xA#64] := by decide
theorem witness_ctrl_write :
    (pending (.write 0x01#7 0x1#64) running).inputs = [.write 0x01#7 0x1#64] ∧ (0x1#64 : Word)[1] = false := by
  decide
theorem witness_busy_read_cmd :
    (pending (.read 0x03#7) running).inputs = [.read 0x03#7] ∧ (pending (.read 0x03#7) running).busy = true := by
  decide
theorem witness_idle_reads_reserved :
    idle.busy = false ∧ (pending (.read 0x7F#7) idle).inputs = [.read 0x7F#7] ∧ 0x42 ≤ (0x7F#7).toNat := by decide
theorem witness_bad_write_r :
    (pending (.write 0x0A#7 1#64) idle).inputs = [.write 0x0A#7 1#64]
      ∧ 0x0A ≤ (0x0A#7).toNat ∧ (0x0A#7).toNat ≤ 0x0F := by decide
theorem witness_busy_write_k33 :
    (pending (.write 0x41#7 1#64) running).inputs = [.write 0x41#7 1#64]
      ∧ (pending (.write 0x41#7 1#64) running).busy = true
      ∧ 0x20 ≤ (0x41#7).toNat ∧ (0x41#7).toNat ≤ 0x41 := by decide
theorem witness_undisturbed :
    (pending (.write 0x01#7 0x1#64) running).busy = true
      ∧ (pending (.write 0x01#7 0x1#64) running).inputs = [.write 0x01#7 0x1#64]
      ∧ (Event.write 0x01#7 0x1#64).keepsCommand = true := by decide
theorem witness_interrupt_clauses :
    idle.busy = false ∧ (0x2#64 : Word)[1] = true ∧ (0x1#64 : Word)[1] = false := by decide
theorem witness_calce_exact : idle.busy = false ∧ idle.p.toNat % 3 = 2 := by decide
theorem witness_zero_rounds :
    ({ idle with rounds := 0#32 } : State).busy = false ∧ ({ idle with rounds := 0#32 } : State).rounds = 0#32
      ∧ ({ idle with rounds := 0#32 } : State).written = allWritten := by decide
theorem witness_busy_command : running.busy = true := by decide
theorem witness_commands_write_only : ∃ t, exec .mulmod idle = .next t := ⟨_, rfl⟩
theorem witness_same_inputs :
    ∃ s u : State, s ≠ u ∧ s.busy = false ∧ u.busy = false ∧ s.ch = u.ch ∧ s.rounds = u.rounds ∧ s.x = u.x
      ∧ s.written = allWritten ∧ u.written = allWritten := by
  refine ⟨idle, { idle with ie := true }, ?_, rfl, rfl, rfl, rfl, rfl, rfl, rfl⟩
  intro h
  have : idle.ie = true := by rw [h]
  cases this
theorem witness_key_controller :
    running.seq = .run .delay ⟨.fk, 0#5, 0#32, idle.rounds, 0#5⟩ ∧ running.outstanding = none := ⟨rfl, rfl⟩
theorem witness_stage_fin :
    (accept .nop idle).seq = .run .nop ⟨.fin, 0#5, 0#32, idle.rounds, 0#5⟩
      ∧ readsWritten (accept .nop idle).written .nop = true := ⟨rfl, rfl⟩
theorem witness_stage_ck :
    (accept .check idle).seq = .run .check ⟨.ck, 0#5, 0#32, idle.rounds, 0#5⟩
      ∧ readsWritten (accept .check idle).written .check = true := ⟨rfl, rfl⟩

/-- A running block meets the invariant, and its next step is a next state. -/
theorem witness_invariant : running.Inv ∧ ∃ t, step running = .next t := by
  refine ⟨⟨?_, ?_, ?_, ?_⟩, _, rfl⟩
  · exact ⟨by decide, fun _ => ⟨rfl, rfl⟩⟩
  · exact ⟨fun _ => rfl, fun h => by cases h⟩
  · exact ⟨rfl, rfl, Nat.zero_lt_succ _⟩
  · intro b h
    cases h

/-- A DELAY just accepted has made no progress yet, and that is what the progress statement says of it. -/
theorem witness_delay_progress : delayProgress running := by
  intro _
  exact ⟨fun i h => absurd h (Nat.not_lt_zero _), fun h => absurd h (by decide)⟩

/-- A prime of the table's form, `0x000FFFFF00000000 | 0xFFFFF4BB`, by Lucas's criterion with base 7. -/
theorem prime_FFFFF4BB : Nat.Prime 0xFFFFFFFFFF4BB := by
  have hf : 0xFFFFFFFFFF4BB - 1 = 2 * 5 * 7 ^ 2 * 11 * 103 * 223 * 1229 * 29599 := by norm_num
  refine lucas_primality _ (7 : ZMod 0xFFFFFFFFFF4BB) ?_ ?_
  · norm_num
    reduce_mod_char
  · intro q hq hd
    have hm : q ∈ [2, 5, 7, 11, 103, 223, 1229, 29599] := by
      rw [hf] at hd
      have p1 : Nat.Prime 103 := by norm_num
      have p2 : Nat.Prime 223 := by norm_num
      have p3 : Nat.Prime 1229 := by norm_num
      have p4 : Nat.Prime 29599 := by norm_num
      have p5 : Nat.Prime 2 := by norm_num
      have p6 : Nat.Prime 5 := by norm_num
      have p7 : Nat.Prime 7 := by norm_num
      have p8 : Nat.Prime 11 := by norm_num
      simp only [Nat.Prime.dvd_mul hq, Nat.prime_dvd_prime_iff_eq hq, *] at hd
      simp only [List.mem_cons, List.not_mem_nil, or_false]
      rcases hd with ((((((( h | h) | h) | h) | h) | h) | h) | h)
      all_goals
        first
        | (have := hq.dvd_of_dvd_pow h; rw [Nat.prime_dvd_prime_iff_eq hq p7] at this; omega)
        | omega
    simp only [List.mem_cons, List.not_mem_nil, or_false] at hm
    rcases hm with h | h | h | h | h | h | h | h <;> subst h <;> norm_num <;> reduce_mod_char <;> decide

theorem witness_modulus : modulusOk (modulus 0xFFFFF4BB#32) := by
  refine ⟨?_, by decide⟩
  have : (modulus 0xFFFFF4BB#32).toNat = 0xFFFFFFFFFF4BB := by decide
  rw [this]
  exact prime_FFFFF4BB

theorem witness_rounds_invert_below :
    (modulus 0xFFFFF4BB#32).toNat.Prime ∧ (modulus 0xFFFFF4BB#32).toNat % 3 = 2
      ∧ sub52 9#52 7#64 < modulus 0xFFFFF4BB#32 ∧ 9#52 < modulus 0xFFFFF4BB#32 :=
  ⟨witness_modulus.1, by decide, by decide, by decide⟩

theorem witness_rounds_invert_above :
    (modulus 0xFFFFF4BB#32).toNat.Prime ∧ (modulus 0xFFFFF4BB#32).toNat % 3 = 2
      ∧ modulus 0xFFFFF4BB#32 ≤ sub52 0xFFFFFFFFFFFFF#52 0#64 ∧ modulus 0xFFFFF4BB#32 ≤ 0xFFFFFFFFFFFFF#52 :=
  ⟨witness_modulus.1, by decide, by decide, by decide⟩

/-- The round trip's hypotheses are met with the keys 0, 5, 0, 0, 0, 5, ...: two rounds from the seed 5, the first key K[1] = 5. -/
theorem witness_round_trip :
    let enc : Block → Block := fun _ => 0x00000000000000050000000000000000#128
    let k := schedule enc #v[0, 0, 0, 0]
    let p := selectedModulus (fun _ => 0xFFFFF4BB#32) k
    modulusOk p ∧ ∀ r, r < 2 → differenceBelow k (exponentOf p) p 2 r (seedOf k p) := by
  refine ⟨witness_modulus, ?_⟩
  unfold differenceBelow
  decide +kernel

/-- The offender's hypotheses are met by program P2b's keys: `K[0] = 7`, seed 5, one round. -/
theorem witness_round_zero_offender :
    let enc : Block → Block := fun _ => 0x00000000000000050000000000000007#128
    let k := schedule enc #v[0, 0, 0, 0]
    let p := selectedModulus (fun _ => 0xFFFFF4BB#32) k
    modulusOk p ∧ 0 < 1 ∧ ¬ differenceBelow k (exponentOf p) p 1 0 (seedOf k p)
      ∧ ∀ r, 0 < r → r < 1 → differenceBelow k (exponentOf p) p 1 r (seedOf k p) := by
  refine ⟨witness_modulus, by decide, ?_, fun r h1 h2 => absurd h1 (by omega)⟩
  unfold differenceBelow
  decide +kernel

/-- The same with two rounds, so that the rounds after the offender are spoken of too: `K[1] = 7`, `K[0] = 0`, seed
5. -/
theorem witness_round_zero_offender_of_two :
    let enc : Block → Block := fun b =>
      if b = 0 then 0x00000000000000070000000000000000#128 else 0x00000000000000050000000000000001#128
    let k := schedule enc #v[0, 0, 0, 0]
    let p := selectedModulus (fun _ => 0xFFFFF4BB#32) k
    modulusOk p ∧ 0 < 2 ∧ ¬ differenceBelow k (exponentOf p) p 2 0 (seedOf k p)
      ∧ differenceBelow k (exponentOf p) p 2 1 (seedOf k p) := by
  refine ⟨witness_modulus, by decide, ?_, ?_⟩ <;> unfold differenceBelow <;> decide +kernel

end Sys2Proof.Tests.Slice0
end

/-! PROOFS of the family `10_state.md`: the register map and its inverse, what a host transfer does at a given
register, and the interrupt line over the shared operations. -/

namespace Sys2Proof.Machine

/-! ### The register map (R43) -/

theorem regOf_number_ch : ∀ i : Fin 4, regOf (Reg.ch i).number = .ch i := by decide

theorem regOf_number_k : ∀ i : Fin 34, regOf (Reg.k i).number = .k i := by decide

@[simp] theorem regOf_number (reg : Reg) : regOf reg.number = reg := by
  cases reg with
  | ch i => exact regOf_number_ch i
  | k i => exact regOf_number_k i
  | id | ctrl | status | cmd | rounds | a | b | e | p | x | r | reserved => rfl

/-! ### Host transfers at a register -/

theorem step_write (s : State) (n : RegNum) (v : Word) (rest : List Event) :
    step { s with inputs := .write n v :: rest } = regWrite n v { s with inputs := rest } := rfl

theorem step_read (s : State) (n : RegNum) (rest : List Event) :
    step { s with inputs := .read n :: rest } = .next (regRead n { s with inputs := rest }) := rfl

/-- R33, R42: an idle write of a register the host may store to is the plain store. -/
theorem step_write_of_idle {s : State} {v : Word} {rest : List Event} (reg : Reg) (ho : reg.owned = true)
    (hr : reg ≠ .r) (hb : s.busy = false) :
    step { s with inputs := .write reg.number v :: rest } = .next (storeReg v { s with inputs := rest } reg) := by
  have hidle : ({ s with inputs := rest } : State).busy = false := hb
  rw [step_write, regWrite_of_owned (by simpa using ho) (by simpa using hr), regOf_number,
    writeOwned_of_idle hidle]

/-- R42, R54: the registers a write of which is always refused. -/
theorem regWrite_of_refused {n : RegNum} {v : Word} {s : State}
    (h : regOf n = .id ∨ regOf n = .r ∨ regOf n = .reserved) :
    regWrite n v s = .next (raiseErr .badWrite s) := by
  obtain h | h | h := h <;> simp [regWrite, h]

/-- R41: a read of a register the engine never owns gives its value, busy or not, and uses up no free value. -/
theorem regRead_of_unowned {n : RegNum} {s : State} (h : (regOf n).owned = false) :
    regRead n s = { s with rdata := some (regValue s (regOf n)) } := by
  simp [regRead, readValue, h]

/-! ### The word in ID -/

/-- R21, field by field. -/
theorem idWordOf_fields (v : Variant) :
    ((idWordOf v)[0] = true ↔ v = .fpu) ∧ (idWordOf v).extractLsb' 1 7 = 0#7
      ∧ (idWordOf v).extractLsb' 8 8 = 1#8 ∧ (idWordOf v).extractLsb' 16 48 = 0#48 := by
  cases v <;> decide

/-! ### Commands by their effect -/

/-- The Operation of each command, the effect `exec` runs between acceptance and completion. -/
def effectOf : Instr → State → State
  | .nop => id
  | .mulmod => mulmodEffect
  | .modpow => modpowEffect
  | .cube => cubeEffect
  | .fillk => fillkEffect
  | .selp => selpEffect
  | .ldp ti => ldpEffect ti
  | .calce => calceEffect
  | .seed => seedEffect
  | .rndb ki => rndbEffect ki
  | .rndf ki => rndfEffect ki
  | .check => checkEffect
  | .delay => delayEffect
  | .verify => verifyEffect

theorem exec_eq_runCommand (i : Instr) (s : State) : exec i s = runCommand i (effectOf i) s := by
  cases i <;> rfl

theorem exec_of_idle {i : Instr} {s : State} (h : s.busy = false) :
    exec i s = .next (complete i (effectOf i (accept i s))) := by
  rw [exec_eq_runCommand, runCommand_of_idle h]

/-- R20: no command writes CTRL. -/
@[simp] theorem effectOf_ie (i : Instr) (s : State) : (effectOf i s).ie = s.ie := by
  cases i <;>
    simp [effectOf, mulmodEffect, modpowEffect, cubeEffect, fillkEffect, selpEffect, ldpEffect, calceEffect,
      seedEffect, rndbEffect, rndfEffect, checkEffect, delayEffect, verifyEffect]

/-! ### The interrupt line (R34) -/

theorem irq_iff (s : State) : s.irq = true ↔ s.done = true ∧ s.ie = true := by simp [State.irq]

@[simp] theorem complete_irq (i : Instr) (s : State) : (complete i s).irq = s.ie := by simp [State.irq]

@[simp] theorem accept_irq (i : Instr) (s : State) : (accept i s).irq = false := by simp [State.irq]

@[simp] theorem resetBlock_irq (s : State) : (resetBlock s).irq = false := by simp [State.irq]

@[simp] theorem raiseErr_irq (c : ErrCode) (s : State) : (raiseErr c s).irq = s.irq := by simp [State.irq]

theorem writeStatus_irq_of_clear {v : Word} {s : State} (h : v[1] = true) : (writeStatus v s).irq = false := by
  simp [State.irq, writeStatus_eq, h]

theorem writeCtrl_irq_of_enable {v : Word} {s : State} (h : v[1] = false) :
    (writeCtrl v s).irq = (s.done && v[0]) := by
  rw [writeCtrl_of_enable h, State.irq]

/-! ### The statements -/

/-- Settles O15: each clause is the plain store at the register's number, the record of what is written
being the one `storeReg` leaves. -/
theorem idleWritesAreMaskedStores : Obligations.IdleWritesAreMaskedStores := by
  intro s v rest hb
  exact ⟨⟨(storeReg v s .rounds).written, step_write_of_idle .rounds rfl nofun hb⟩,
    ⟨(storeReg v s .a).written, step_write_of_idle .a rfl nofun hb⟩,
    ⟨(storeReg v s .b).written, step_write_of_idle .b rfl nofun hb⟩,
    ⟨(storeReg v s .e).written, step_write_of_idle .e rfl nofun hb⟩,
    ⟨(storeReg v s .p).written, step_write_of_idle .p rfl nofun hb⟩,
    ⟨(storeReg v s .x).written, step_write_of_idle .x rfl nofun hb⟩,
    fun i => ⟨(storeReg v s (.ch i)).written, step_write_of_idle (.ch i) rfl nofun hb⟩,
    fun i => ⟨(storeReg v s (.k i)).written, step_write_of_idle (.k i) rfl nofun hb⟩⟩

/-- Settles O18: one lemma on `irq` for each operation the statement speaks of. -/
theorem interruptLineFollowsDoneAndEnable : Obligations.InterruptLineFollowsDoneAndEnable := by
  intro s i v c
  have hcommand (hb : s.busy = false) : ∃ t, exec i s = .next t ∧ t.irq = s.ie :=
    ⟨_, exec_of_idle hb, by simp⟩
  exact ⟨irq_iff s, hcommand, accept_irq i s, writeStatus_irq_of_clear, writeCtrl_irq_of_enable,
    resetBlock_irq s, raiseErr_irq c s⟩

/-- Settles O13: ID is never owned by the engine, so the read gives `idWord` at every state, and a write of it is
always refused. -/
theorem idIsConstant : Obligations.IdIsConstant := by
  intro s v rest
  have hread : step { s with inputs := .read 0x00#7 :: rest }
      = .next { s with inputs := rest, rdata := some idWord } := by
    rw [step_read, regRead_of_unowned rfl]
    rfl
  have hwrite : step { s with inputs := .write 0x00#7 v :: rest }
      = .next (raiseErr .badWrite { s with inputs := rest }) := by
    rw [step_write, regWrite_of_refused (.inl rfl)]
  exact ⟨⟨idWord, hread, idWordOf_fields Config.variant⟩, hwrite⟩

end Sys2Proof.Machine

/-! PROOFS of the family `30_encoding.md`: the three format tests of R60 as the masks of R63, what the decoder
answers to a word it refuses (R64, R65), and the four ends of a command issue. -/

namespace Sys2Proof.Machine

/-! ### The words a format test lets through, and the masks of R63 -/

/-- R60: a word whose zero fields are 0 is its other fields, put together; so for each format. -/
theorem word_of_formatN_zero {w : Word} (h : w.extractLsb' 8 56 = 0#56) : w = 0#56 ++ opField w := by
  rw [← h]
  exact (BitVec.extractLsb'_append_extractLsb' (w := 56) (len := 8)).symm

theorem word_of_formatK_zero {w : Word} (h : w.extractLsb' 13 51 = 0#51) :
    w = 0#51 ++ (kiField w ++ opField w) := by
  have hlow : kiField w ++ opField w = w.extractLsb' 0 13 :=
    BitVec.extractLsb'_append_extractLsb'_eq_extractLsb' rfl
  rw [hlow, ← h]
  exact (BitVec.extractLsb'_append_extractLsb' (w := 51) (len := 13)).symm

theorem word_of_formatT_zero {w : Word} (h : w.extractLsb' 26 38 = 0#38 ∧ w.extractLsb' 8 8 = 0#8) :
    w = 0#38 ++ (tiField w ++ (0#8 ++ opField w)) := by
  obtain ⟨hhigh, hmid⟩ := h
  have hlow : 0#8 ++ opField w = w.extractLsb' 0 16 := by
    rw [← hmid]
    exact BitVec.extractLsb'_append_extractLsb'_eq_extractLsb' rfl
  have htop : tiField w ++ w.extractLsb' 0 16 = w.extractLsb' 0 26 :=
    BitVec.extractLsb'_append_extractLsb'_eq_extractLsb' rfl
  rw [hlow, htop, ← hhigh]
  exact (BitVec.extractLsb'_append_extractLsb' (w := 38) (len := 26)).symm

/-- What a row's mask leaves of a word split at the row's immediate field: the field is dropped. -/
theorem append_and_mask {m n k : Nat} (high : BitVec m) (field : BitVec n) (low : BitVec k) :
    (high ++ (field ++ low)) &&& (BitVec.allOnes m ++ (0#n ++ BitVec.allOnes k)) = high ++ (0#n ++ low) := by
  simp only [BitVec.and_append, BitVec.and_allOnes, BitVec.and_zero]

/-! A word with a row's opcode that the row does not match fails the test of the row's format: one that passed
would be split into the format's fields, and the mask leaves of that just the row's pattern. -/

theorem formatN_of_unfit {row : OpcodeRow} {w : Word} {i : Instr} (hmask : row.mask = BitVec.allOnes 64)
    (hpattern : row.pattern = 0#56 ++ opField row.pattern) (hop : opField row.pattern = opField w)
    (h : row.fits w = false) : formatN w i = .error .reservedField := by
  refine if_neg fun hzero => ?_
  have hfits : w &&& row.mask = row.pattern := by
    rw [hpattern, hop, hmask, BitVec.and_allOnes]
    exact word_of_formatN_zero hzero
  simp [OpcodeRow.fits, hfits] at h

theorem formatK_of_unfit {row : OpcodeRow} {w : Word} {mk : BitVec 5 → Instr}
    (hmask : row.mask = BitVec.allOnes 51 ++ (0#5 ++ BitVec.allOnes 8))
    (hpattern : row.pattern = 0#51 ++ (0#5 ++ opField row.pattern)) (hop : opField row.pattern = opField w)
    (h : row.fits w = false) : formatK w mk = .error .reservedField := by
  refine if_neg fun hzero => ?_
  have hfits : w &&& row.mask = row.pattern :=
    calc w &&& row.mask
      _ = (0#51 ++ (kiField w ++ opField w)) &&& (BitVec.allOnes 51 ++ (0#5 ++ BitVec.allOnes 8)) :=
        congrArg₂ (· &&& ·) (word_of_formatK_zero hzero) hmask
      _ = 0#51 ++ (0#5 ++ opField w) := append_and_mask _ _ _
      _ = row.pattern := by rw [hpattern, hop]
  simp [OpcodeRow.fits, hfits] at h

theorem formatT_of_unfit {row : OpcodeRow} {w : Word} {mk : BitVec 10 → Instr}
    (hmask : row.mask = BitVec.allOnes 38 ++ (0#10 ++ BitVec.allOnes 16))
    (hpattern : row.pattern = 0#38 ++ (0#10 ++ (0#8 ++ opField row.pattern)))
    (hop : opField row.pattern = opField w) (h : row.fits w = false) :
    formatT w mk = .error .reservedField := by
  refine if_neg fun hzero => ?_
  have hfits : w &&& row.mask = row.pattern :=
    calc w &&& row.mask
      _ = (0#38 ++ (tiField w ++ (0#8 ++ opField w))) &&& (BitVec.allOnes 38 ++ (0#10 ++ BitVec.allOnes 16)) :=
        congrArg₂ (· &&& ·) (word_of_formatT_zero hzero) hmask
      _ = 0#38 ++ (0#10 ++ (0#8 ++ opField w)) := append_and_mask _ _ _
      _ = row.pattern := by rw [hpattern, hop]
  simp [OpcodeRow.fits, hfits] at h

/-! ### What the decoder answers to a word it refuses -/

theorem setWidth_eq_opField (w : Word) : w.setWidth 8 = opField w := BitVec.setWidth_eq_extractLsb' (by decide)

/-- R64: every opcode the decoder tests for is some row's. -/
theorem decode_of_no_row {w : Word} (h : ∀ row ∈ opcodeTable, opField row.pattern ≠ opField w) :
    decode w = .error .illegalOpcode := by
  simp only [opcodeTable, List.forall_mem_cons] at h
  obtain ⟨hnop, hmulmod, hmodpow, hcube, hfillk, hselp, hldp, hcalce, hseed, hrndb, hrndf, hcheck, hdelay,
    hverify, -⟩ := h
  exact (if_neg hnop.symm).trans <| (if_neg hmulmod.symm).trans <| (if_neg hmodpow.symm).trans <|
    (if_neg hcube.symm).trans <| (if_neg hfillk.symm).trans <| (if_neg hselp.symm).trans <|
    (if_neg hldp.symm).trans <| (if_neg hcalce.symm).trans <| (if_neg hseed.symm).trans <|
    (if_neg hrndb.symm).trans <| (if_neg hrndf.symm).trans <| (if_neg hcheck.symm).trans <|
    (if_neg hdelay.symm).trans <| if_neg hverify.symm

/-- R65: at a row's opcode the decoder comes to the test of that row's format. -/
theorem decode_of_unfit_row {row : OpcodeRow} {w : Word} (hrow : row ∈ opcodeTable)
    (hop : opField row.pattern = opField w) (h : row.fits w = false) : decode w = .error .reservedField := by
  simp only [opcodeTable, List.mem_cons, List.not_mem_nil, or_false] at hrow
  obtain rfl | rfl | rfl | rfl | rfl | rfl | rfl | rfl | rfl | rfl | rfl | rfl | rfl | rfl := hrow <;>
    rw [decode, ← hop]
  · exact formatN_of_unfit (i := .nop) rfl rfl hop h
  · exact formatN_of_unfit (i := .mulmod) rfl rfl hop h
  · exact formatN_of_unfit (i := .modpow) rfl rfl hop h
  · exact formatN_of_unfit (i := .cube) rfl rfl hop h
  · exact formatN_of_unfit (i := .fillk) rfl rfl hop h
  · exact formatN_of_unfit (i := .selp) rfl rfl hop h
  · exact formatT_of_unfit (mk := .ldp) rfl rfl hop h
  · exact formatN_of_unfit (i := .calce) rfl rfl hop h
  · exact formatN_of_unfit (i := .seed) rfl rfl hop h
  · exact formatK_of_unfit (mk := .rndb) rfl rfl hop h
  · exact formatK_of_unfit (mk := .rndf) rfl rfl hop h
  · exact formatN_of_unfit (i := .check) rfl rfl hop h
  · exact formatN_of_unfit (i := .delay) rfl rfl hop h
  · exact formatN_of_unfit (i := .verify) rfl rfl hop h

/-! ### The round trip of each command, as one fact -/

theorem decode_encode (i : Instr) : decode (encode i) = .ok i := by
  cases i with
  | nop => exact Laws.RoundTrip.nop
  | mulmod => exact Laws.RoundTrip.mulmod
  | modpow => exact Laws.RoundTrip.modpow
  | cube => exact Laws.RoundTrip.cube
  | fillk => exact Laws.RoundTrip.fillk
  | selp => exact Laws.RoundTrip.selp
  | ldp ti => exact Laws.RoundTrip.ldp ti
  | calce => exact Laws.RoundTrip.calce
  | seed => exact Laws.RoundTrip.seed
  | rndb ki => exact Laws.RoundTrip.rndb ki
  | rndf ki => exact Laws.RoundTrip.rndf ki
  | check => exact Laws.RoundTrip.check
  | delay => exact Laws.RoundTrip.delay
  | verify => exact Laws.RoundTrip.verify

/-! ### Command issue -/

/-- R43, R164: register 0x03 is CMD. -/
theorem step_write_cmd {s : State} {w : Word} {rest : List Event} (h : s.inputs = .write 0x03#7 w :: rest) :
    step s = issue w { s with inputs := rest } :=
  step_of_cons h

/-! ### The statement -/

/-- Settles O5: one end of `issueWith` for each clause. What is left to say is which words the decoder refuses with
which code (`decode_of_no_row`, `decode_of_unfit_row`) and that it accepts a command's word (`decode_encode`). -/
theorem commandIssueProtocol : Obligations.CommandIssueProtocol := by
  intro s w rest hin s0
  have hstep : step s = issue w s0 := step_write_cmd hin
  refine ⟨fun hb => ?busy, fun hb hall => ?illegal, fun hb hany hform => ?reserved, fun i hb henc => ?accepted⟩
  all_goals rw [hstep]
  case busy => exact issueWith_of_busy (s := s0) hb
  case illegal =>
    have hd : decode w = .error .illegalOpcode :=
      decode_of_no_row (by simpa [setWidth_eq_opField] using hall)
    exact issueWith_of_malformed (s := s0) hb hd
  case reserved =>
    obtain ⟨row, hrow, hop⟩ : ∃ row ∈ opcodeTable, opField row.pattern = opField w := by
      simpa [setWidth_eq_opField] using hany
    have hfit : row.fits w = false := by simpa using List.any_eq_false.mp hform row hrow
    exact issueWith_of_malformed (s := s0) hb (decode_of_unfit_row hrow hop hfit)
  case accepted =>
    have hd : decode w = .ok i := henc ▸ decode_encode i
    exact issueWith_of_decoded (s := s0) hb hd

end Sys2Proof.Machine

/-! PROOFS of the family `40_field_arithmetic.md`: each field function as arithmetic on natural numbers, and the
commands that leave their result in R. -/

namespace Sys2Proof.Machine

/-! ### Residues of P (R15, R80, R81, R83, R84) -/

/-- R15: the fixed upper bits keep P above 1. -/
theorem one_lt_modulus (plo : BitVec 32) : 1 < (modulus plo).toNat := by
  have := modulus_lower plo
  omega

theorem lt_of_toNat_eq_mod {r p : Field} {n : Nat} (hp : 0 < p.toNat) (h : r.toNat = n % p.toNat) : r < p := by
  rw [BitVec.lt_def, h]
  exact Nat.mod_lt n hp

theorem mulmod_lt (a b p : Field) (hp : 0 < p.toNat) : mulmod a b p < p :=
  lt_of_toNat_eq_mod hp (toNat_mulmod a b p hp)

theorem toNat_cube3 (a p : Field) (hp : 0 < p.toNat) : (cube3 a p).toNat = a.toNat ^ 3 % p.toNat := by
  rw [cube3, toNat_mulmod _ _ _ hp, toNat_mulmod _ _ _ hp, Nat.mod_mul_mod, pow_three']

theorem cube3_lt (a p : Field) (hp : 0 < p.toNat) : cube3 a p < p :=
  lt_of_toNat_eq_mod hp (toNat_cube3 a p hp)

/-- R80: one subtraction reduces a value below `2 p`. -/
theorem toNat_canon {v p : Field} (h : v.toNat < 2 * p.toNat) : (canon v p).toNat = v.toNat % p.toNat := by
  rw [canon]
  split
  next hle =>
    have hle' : p.toNat ≤ v.toNat := hle
    rw [BitVec.toNat_sub_of_le hle, Nat.mod_eq_sub_mod hle', Nat.mod_eq_of_lt (by omega)]
  next hlt => rw [Nat.mod_eq_of_lt (by simpa [BitVec.le_def] using hlt)]

theorem toNat_canon_modulus (v : Field) (plo : BitVec 32) :
    (canon v (modulus plo)).toNat = v.toNat % (modulus plo).toNat :=
  toNat_canon (lt_two_modulus v plo)

theorem canon_modulus_lt (v : Field) (plo : BitVec 32) : canon v (modulus plo) < modulus plo :=
  lt_of_toNat_eq_mod (modulus_pos plo) (toNat_canon_modulus v plo)

/-- R84: on a 52-bit value the wide remainder is one conditional subtraction. -/
theorem mod64_setWidth (x : Field) (plo : BitVec 32) : mod64 (x.setWidth 64) (modulus plo) = canon x (modulus plo) := by
  apply BitVec.eq_of_toNat_eq
  rw [toNat_mod64 _ _ (modulus_pos plo), toNat_canon_modulus, BitVec.toNat_setWidth_of_le (by decide)]

/-! ### The power by repeated squaring (R82) -/

/-- The exponent halved on the squared base, all modulo `m`. -/
theorem sq_mod_pow_half_mod (b e m : Nat) : (b * b % m) ^ (e / 2) % m = b ^ (2 * (e / 2)) % m := by
  rw [← Nat.pow_mod, pow_mul, pow_two]

theorem powMod_eq (m fuel b e : Nat) (h : e < 2 ^ fuel) : powMod m fuel b e = b ^ e % m := by
  induction fuel generalizing b e with
  | zero =>
    obtain rfl : e = 0 := by simpa using h
    rfl
  | succ fuel ih =>
    have hhalf : e / 2 < 2 ^ fuel := by omega
    rw [powMod, ih _ _ hhalf, sq_mod_pow_half_mod]
    split
    next hodd => rw [Nat.mul_mod_mod, ← pow_succ', show 2 * (e / 2) + 1 = e by omega]
    next heven => rw [show 2 * (e / 2) = e by omega]

theorem toNat_modpow (a e p : Field) (hp : 0 < p.toNat) : (modpow a e p).toNat = a.toNat ^ e.toNat % p.toNat := by
  rw [modpow, powMod_eq _ _ _ _ e.isLt, toNat_ofNat_mod _ _ hp]

theorem modpow_lt (a e p : Field) (hp : 0 < p.toNat) : modpow a e p < p :=
  lt_of_toNat_eq_mod hp (toNat_modpow a e p hp)

/-- R82: exponent 0 gives 1 for every base, 0 too, since `p > 1`. -/
theorem modpow_zero_right (a p : Field) (hp : 1 < p.toNat) : modpow a 0#52 p = 1#52 := by
  apply BitVec.eq_of_toNat_eq
  rw [toNat_modpow _ _ _ (by omega)]
  exact Nat.mod_eq_of_lt hp

theorem modpow_zero_left (e p : Field) (hp : 0 < p.toNat) (he : e ≠ 0#52) : modpow 0#52 e p = 0#52 := by
  have he' : e.toNat ≠ 0 := fun h => he (BitVec.eq_of_toNat_eq h)
  apply BitVec.eq_of_toNat_eq
  rw [toNat_modpow _ _ _ hp, BitVec.toNat_zero, zero_pow he', Nat.zero_mod]

/-- R82: only the residue of the base counts. -/
theorem modpow_congr {a a' p : Field} (e : Field) (hp : 0 < p.toNat) (h : a.toNat % p.toNat = a'.toNat % p.toNat) :
    modpow a e p = modpow a' e p := by
  apply BitVec.eq_of_toNat_eq
  rw [toNat_modpow _ _ _ hp, toNat_modpow _ _ _ hp, Nat.pow_mod, h, ← Nat.pow_mod]

/-! ### The key mixing (R85) -/

theorem toNat_sub52 (x : Field) (k : Word) :
    (sub52 x k).toNat = (x.toNat + 2 ^ 52 - k.toNat % 2 ^ 52) % 2 ^ 52 := by
  rw [sub52, BitVec.toNat_sub, BitVec.toNat_setWidth]
  omega

theorem toNat_add52 (x : Field) (k : Word) : (add52 x k).toNat = (x.toNat + k.toNat) % 2 ^ 52 := by
  rw [add52, BitVec.toNat_add, BitVec.toNat_setWidth, Nat.add_mod_mod]

theorem add52_sub52 (x : Field) (k : Word) : add52 (sub52 x k) k = x := BitVec.sub_add_cancel x _

theorem sub52_add52 (x : Field) (k : Word) : sub52 (add52 x k) k = x := BitVec.add_sub_cancel x _

/-! ### Commands that write R alone (R94 to R96) -/

/-- R20, R164: an idle block with the command's inputs written, whose command puts `v` in R and touches no other
data, ends the command with `v` in R, OK = 0 and the rest of the data as before. -/
theorem exec_of_writes_r {i : Instr} {s : State} {v : Field} (hb : s.busy = false)
    (hin : readsWritten s.written i = true) (heff : effectOf i (accept i s) = { accept i s with r := v }) :
    ∃ t, exec i s = .next t ∧ Completed s t ∧ t.ok = false ∧ t.r = v ∧ SameData { s with r := t.r } t := by
  have hin' : readsWritten { accept i s with r := v }.written i = true := hin
  refine ⟨complete i { accept i s with r := v }, ?_, ?_⟩
  · rw [exec_of_idle hb, heff]
  · rw [complete_of_written hin']
    exact ⟨by constructor <;> rfl, rfl, rfl, by constructor <;> rfl⟩

/-! ### The statements -/

/-- Settles O20: the value left in R is the `mulmod` of R81. -/
theorem mulmodWritesProductResidue : Obligations.MulmodWritesProductResidue := by
  refine ⟨decode_encode .mulmod, fun s hb ha hbw hp => ?_⟩
  have hin : readsWritten s.written .mulmod = true := by simp [readsWritten, ha, hbw, hp]
  have hpos : 0 < s.p.toNat := modulus_pos s.plo
  obtain ⟨t, hexec, hdone, hok, hr, hdata⟩ := exec_of_writes_r (v := mulmod s.a s.b s.p) hb hin rfl
  exact ⟨t, hexec, hdone, hok, hr ▸ toNat_mulmod _ _ _ hpos, hr ▸ mulmod_lt _ _ _ hpos, hdata⟩

/-- Settles O22: the value left in R is the `cube3` of R83. -/
theorem cubeWritesCubeResidue : Obligations.CubeWritesCubeResidue := by
  refine ⟨decode_encode .cube, fun s hb ha hp => ?_⟩
  have hin : readsWritten s.written .cube = true := by simp [readsWritten, ha, hp]
  have hpos : 0 < s.p.toNat := modulus_pos s.plo
  obtain ⟨t, hexec, hdone, hok, hr, hdata⟩ := exec_of_writes_r (v := cube3 s.a s.p) hb hin rfl
  exact ⟨t, hexec, hdone, hok, hr ▸ toNat_cube3 _ _ hpos, hr ▸ cube3_lt _ _ hpos, hdata⟩

/-- Settles O44: every 52-bit value is below `2 P`, so one subtraction is enough. -/
theorem canonIsTheRemainder : Obligations.CanonIsTheRemainder := fun v plo =>
  ⟨rfl, toNat_canon_modulus v plo, canon_modulus_lt v plo⟩

/-- Settles O45: the invariant of the repeated squaring is `powMod_eq`; the corner cases follow from the power. -/
theorem modpowIsTheMathematicalPower : Obligations.ModpowIsTheMathematicalPower := by
  intro a e plo
  have hpos := modulus_pos plo
  have hcanon : a.toNat % (modulus plo).toNat = (canon a (modulus plo)).toNat % (modulus plo).toNat := by
    rw [toNat_canon_modulus, Nat.mod_mod]
  exact ⟨toNat_modpow a e _ hpos, modpow_lt a e _ hpos, modpow_zero_right a _ (one_lt_modulus plo),
    modpow_zero_left e _ hpos, modpow_congr e hpos hcanon⟩

/-- Settles O46: P is at least `2^52 - 2^32`, so 4097 P is above every 64-bit value. -/
theorem mod64IsTheRemainder : Obligations.Mod64IsTheRemainder := by
  intro v x plo
  have hquotient : v.toNat / (modulus plo).toNat < 4097 := by
    have hv := v.isLt
    have hp := modulus_lower plo
    exact Nat.div_lt_of_lt_mul (by omega)
  exact ⟨toNat_mod64 v _ (modulus_pos plo), Nat.le_of_lt_succ hquotient, mod64_setWidth x plo⟩

/-- Settles O47: the two sums on natural numbers, of which the other two equations are arithmetic. -/
theorem keyMixingIsModularAndInvertible : Obligations.KeyMixingIsModularAndInvertible := by
  intro x k
  have hsub := toNat_sub52 x k
  have hadd := toNat_add52 x k
  have hsubInt : ((sub52 x k).toNat : Int) = ((x.toNat : Int) - k.toNat) % 2 ^ 52 := by omega
  have haddLow : (add52 x k).toNat = (x.toNat + k.toNat % 2 ^ 52) % 2 ^ 52 := by rw [hadd, Nat.add_mod_mod]
  exact ⟨hsub, hsubInt, hadd, haddLow, add52_sub52 x k, sub52_add52 x k⟩

end Sys2Proof.Machine

/-! PROOFS of the family `41_key_derivation.md`: what any command does to an idle block whose inputs are written, and
the values the five commands of the family compute: the exponent, the prime's index, the key words, and the bytes of
the cipher inputs. -/

namespace Sys2Proof.Machine

/-! ### A command with its inputs written (R164, R196, R199) -/

/-- R20: no command's Operation touches the record of what is written; completion does that. -/
@[simp] theorem effectOf_written (i : Instr) (s : State) : (effectOf i s).written = s.written := by
  cases i with
  -- a bare `rfl` here would first compare the schedule with `s.k`
  | fillk => simp only [effectOf, fillkEffect]
  | nop | mulmod | modpow | cube | selp | ldp | calce | seed | rndb | rndf | check | delay | verify => rfl

/-- R20: the Operations read data registers alone, so acceptance changes no result. -/
theorem effectOf_accept_data (i : Instr) (s : State) : SameData (effectOf i s) (effectOf i (accept i s)) := by
  cases i <;> constructor <;> rfl

/-- R164: what no command touches is after the whole command as it was before, whether its inputs are written or
not. -/
theorem completed_complete_effectOf (i : Instr) (s : State) : Completed s (complete i (effectOf i (accept i s))) := by
  cases i <;> constructor <;> rfl

/-- R196: completion with the inputs written leaves the data registers to the command. -/
theorem complete_data_of_written {i : Instr} {s : State} (h : readsWritten s.written i = true) :
    SameData s (complete i s) ∧ (complete i s).ok = s.ok := by
  rw [complete_of_written h]
  exact ⟨by constructor <;> rfl, rfl⟩

theorem SameData.trans {s t u : State} (hst : SameData s t) (htu : SameData t u) : SameData s u where
  rounds := htu.rounds.trans hst.rounds
  a := htu.a.trans hst.a
  b := htu.b.trans hst.b
  e := htu.e.trans hst.e
  plo := htu.plo.trans hst.plo
  x := htu.x.trans hst.x
  r := htu.r.trans hst.r
  ch := htu.ch.trans hst.ch
  k := htu.k.trans hst.k

/-- An idle block with the command's inputs written ends the command with the data of the command's Operation. -/
theorem exec_of_inputs_written {i : Instr} {s : State} (hb : s.busy = false)
    (hin : readsWritten s.written i = true) :
    ∃ t, exec i s = .next t ∧ Completed s t ∧ t.ok = (effectOf i (accept i s)).ok ∧ SameData (effectOf i s) t := by
  have hin' : readsWritten (effectOf i (accept i s)).written i = true := by simpa using hin
  obtain ⟨hdata, hok⟩ := complete_data_of_written hin'
  exact ⟨_, exec_of_idle hb, completed_complete_effectOf i s, hok, (effectOf_accept_data i s).trans hdata⟩

/-! ### The exponent (R115) -/

theorem toNat_exponentOf (p : Field) : (exponentOf p).toNat = (2 * p.toNat - 1) / 3 := by
  have hp := p.isLt
  rw [exponentOf, BitVec.toNat_ofNat, Nat.mod_eq_of_lt (by omega)]

/-- R115: the division by 3 is exact when `P mod 3 = 2`. -/
theorem three_mul_exponent {p : Nat} (h : p % 3 = 2) : 3 * ((2 * p - 1) / 3) = 2 * (p - 1) + 1 := by omega

/-- R115: so the exponent inverts 3 modulo `P - 1`. -/
theorem three_mul_exponent_mod {p : Nat} (h : p % 3 = 2) (hp : 2 < p) : 3 * ((2 * p - 1) / 3) % (p - 1) = 1 := by
  rw [three_mul_exponent h, Nat.mul_add_mod_self_right, Nat.mod_eq_of_lt (by omega)]

/-! ### The prime (R15, R113) -/

/-- R113: only bits 9:0 of K[32] matter. -/
theorem primeIndex_eq (k : Keys) : primeIndex k = BitVec.ofNat 10 (k[32].toNat % 1024) := by
  apply BitVec.eq_of_toNat_eq
  simp [primeIndex]

/-- R15: the prime in terms of the stored half, in the form of R113. -/
theorem toNat_p (s : State) : s.p.toNat = 0x000FFFFF00000000 + s.plo.toNat := toNat_modulus s.plo

/-- R113, R114: with the data `loadPrime j` leaves, P is the table's at `j` and E is derived from the new P. -/
theorem loadPrime_results {j : BitVec 10} {s t : State} (hdata : SameData (loadPrime j s) t) :
    t.plo = Config.primeTable j ∧ t.p.toNat = 0x000FFFFF00000000 + t.plo.toNat
      ∧ t.e.toNat = (2 * t.p.toNat - 1) / 3 ∧ SameData { s with plo := t.plo, e := t.e } t := by
  have hplo : t.plo = Config.primeTable j := hdata.plo
  have he : t.e = exponentOf t.p := by rw [hdata.e, State.p, hplo, loadPrime_e]
  refine ⟨hplo, toNat_p t, by rw [he, toNat_exponentOf], ?_⟩
  rw [hdata.plo, hdata.e]
  exact hdata

/-! ### The key words (R111) -/

theorem keyWord_two_mul (enc : Block → Block) (ch : Challenge) (j : Nat) :
    keyWord enc ch (2 * j) = lowWord (keyBlock enc ch j) := by
  simp [keyWord]

theorem keyWord_two_mul_add_one (enc : Block → Block) (ch : Challenge) (j : Nat) :
    keyWord enc ch (2 * j + 1) = highWord (keyBlock enc ch j) := by
  rw [keyWord, if_neg (by omega), show (2 * j + 1) / 2 = j by omega]

theorem keyBlock_of_two_le (enc : Block → Block) (ch : Challenge) {j : Nat} (h : 2 ≤ j) :
    keyBlock enc ch j = enc (keyBlock enc ch (j - 1)) := by
  obtain ⟨m, rfl⟩ := Nat.exists_eq_add_of_le' h
  exact keyBlock_chain enc ch m

/-! ### The bytes of the cipher inputs (R44, R110) -/

/-- R44: the low word of a block holds bytes 0 to 7. -/
theorem blockByte_append_of_lt (high low : Word) {i : Fin 16} (h : i.val < 8) :
    blockByte (high ++ low) i = low.extractLsb' (8 * i.val) 8 :=
  BitVec.extractLsb'_append_eq_of_add_le (by omega)

/-- R44: the high word of a block holds bytes 8 to 15. -/
theorem blockByte_append_of_le (high low : Word) {i : Fin 16} (h : 8 ≤ i.val) :
    blockByte (high ++ low) i = high.extractLsb' (8 * (i.val - 8)) 8 := by
  rw [blockByte, BitVec.extractLsb'_append_eq_of_le (by omega), Nat.mul_sub]

/-- R18, R44: byte `m` of challenge word `w` is challenge byte `8 w + m`. -/
theorem challengeByte_of_word (ch : Challenge) {j : Fin 32} {w m : Nat} (hw : w < 4) (hm : m < 8)
    (hj : j.val = 8 * w + m) : challengeByte ch j = ch[w].extractLsb' (8 * m) 8 := by
  have hdiv : j.val / 8 = w := by omega
  have hmod : j.val % 8 = m := by omega
  simp only [challengeByte, hdiv, hmod]

/-- R110: two neighbouring challenge words, put together, hold their sixteen bytes in order. -/
theorem blockByte_of_words (ch : Challenge) (i : Fin 16) {w : Nat} (hw : w + 1 < 4) :
    blockByte (ch[w + 1] ++ ch[w]) i = challengeByte ch ⟨8 * w + i.val, by omega⟩ := by
  by_cases hi : i.val < 8
  · rw [blockByte_append_of_lt _ _ hi]
    exact (challengeByte_of_word ch (by omega) hi rfl).symm
  · have hi' : 8 ≤ i.val := Nat.le_of_not_lt hi
    have hj : 8 * w + i.val = 8 * (w + 1) + (i.val - 8) := by omega
    rw [blockByte_append_of_le _ _ hi']
    exact (challengeByte_of_word ch hw (by omega) hj).symm

/-! ### The statements -/

/-- Settles O23: the blocks are those of `keyBlock`. -/
theorem fillkWritesTheSchedule : Obligations.FillkWritesTheSchedule := by
  intro s hb hch
  have hin : readsWritten s.written .fillk = true := (challengeWritten_iff s.written).mpr hch
  obtain ⟨t, hexec, hdone, hok, hdata⟩ := exec_of_inputs_written hb hin
  have hk : t.k = schedule Config.enc s.ch := hdata.k
  have hframe : SameData { s with k := t.k } t := by
    rw [hk]
    exact hdata
  refine ⟨t, hexec, hdone, hok, hframe, keyBlock Config.enc s.ch, rfl, rfl,
    fun j hj _ => keyBlock_of_two_le _ _ hj, fun j => ?_⟩
  simp only [hk, getElem_schedule, keyWord_two_mul, keyWord_two_mul_add_one]
  exact ⟨rfl, rfl⟩

/-- Settles O24: both commands leave the data of `loadPrime`, at K[32]'s low ten bits or at the immediate. -/
theorem selpAndLdpLoadPrimeAndExponent : Obligations.SelpAndLdpLoadPrimeAndExponent := by
  refine ⟨decode_encode .selp, fun s hb => ⟨fun hk => ?selp, fun ti => ?ldp⟩⟩
  case selp =>
    obtain ⟨t, hexec, hdone, hok, hdata⟩ := exec_of_inputs_written (i := .selp) hb hk
    rw [← primeIndex_eq]
    exact ⟨t, hexec, hdone, hok, loadPrime_results hdata⟩
  case ldp =>
    obtain ⟨t, hexec, hdone, hok, hdata⟩ := exec_of_inputs_written (i := .ldp ti) hb rfl
    exact ⟨t, hexec, hdone, hok, loadPrime_results hdata⟩

/-- Settles O25: the exact case is `three_mul_exponent`, and P is far above 2. -/
theorem calceWritesInverseExponent : Obligations.CalceWritesInverseExponent := by
  refine ⟨decode_encode .calce, fun s hb hp => ?_⟩
  obtain ⟨t, hexec, hdone, hok, hdata⟩ := exec_of_inputs_written (i := .calce) hb hp
  have he : t.e = exponentOf s.p := hdata.e
  have heval : t.e.toNat = (2 * s.p.toNat - 1) / 3 := by rw [he, toNat_exponentOf]
  have hlarge : 2 < s.p.toNat := by
    rw [toNat_p]
    omega
  have hframe : SameData { s with e := t.e } t := by
    rw [he]
    exact hdata
  refine ⟨t, hexec, hdone, hok, heval, fun h3 => ?_, hframe⟩
  rw [heval]
  exact ⟨three_mul_exponent h3, three_mul_exponent_mod h3 hlarge⟩

/-- Settles O26: the value left in X is the `mod64` of R84. -/
theorem seedWritesTarget : Obligations.SeedWritesTarget := by
  refine ⟨decode_encode .seed, fun s hb hk hp => ?_⟩
  have hin : readsWritten s.written .seed = true := by simp [readsWritten, hk, hp]
  have hpos : 0 < s.p.toNat := modulus_pos s.plo
  obtain ⟨t, hexec, hdone, hok, hdata⟩ := exec_of_inputs_written hb hin
  have hx : t.x = mod64 s.k[33] s.p := hdata.x
  have heval : t.x.toNat = s.k[33].toNat % s.p.toNat := by rw [hx, toNat_mod64 _ _ hpos]
  have hframe : SameData { s with x := t.x } t := by
    rw [hx]
    exact hdata
  exact ⟨t, hexec, hdone, hok, heval, lt_of_toNat_eq_mod hpos heval, hframe⟩

/-- Settles O48: each half is a pair of neighbouring challenge words. -/
theorem cipherInputsAreTheChallengeHalves : Obligations.CipherInputsAreTheChallengeHalves := by
  intro ch i
  have hlow := blockByte_of_words ch i (w := 0) (by decide)
  have hhigh := blockByte_of_words ch i (w := 2) (by decide)
  simp only [Nat.mul_zero, Nat.zero_add] at hlow
  exact ⟨rfl, rfl, hlow, hhigh⟩

end Sys2Proof.Machine

/-! PROOFS of the family `42_permutation.md`: the comparison of residues, the round functions and their inverses under
the hypothesis of R140, and the commands RNDB, RNDF, CHECK, DELAY and VERIFY by the functions they compute. -/

namespace Sys2Proof.Machine

/-! ### The comparison (R27, R134) -/

theorem verifyEq_iff (x : Field) (k : Word) {p : Field} (hp : 0 < p.toNat) :
    verifyEq x k p = true ↔ x.toNat % p.toNat = k.toNat % p.toNat := by
  rw [verifyEq, beq_iff_eq, ← BitVec.toNat_inj, toNat_mod64 _ _ hp, toNat_mod64 _ _ hp,
    BitVec.toNat_setWidth_of_le (by decide)]

/-! ### The round functions (R130, R131) -/

theorem toNat_bwd (x : Field) (k : Word) (e : Field) {p : Field} (hp : 0 < p.toNat) :
    (bwd x k e p).toNat = ((x.toNat + 2 ^ 52 - k.toNat % 2 ^ 52) % 2 ^ 52) ^ e.toNat % p.toNat := by
  rw [bwd, toNat_modpow _ _ _ hp, toNat_sub52]

theorem bwd_lt (x : Field) (k : Word) (e : Field) {p : Field} (hp : 0 < p.toNat) : bwd x k e p < p :=
  modpow_lt _ _ _ hp

theorem toNat_fwd (x : Field) (k : Word) {p : Field} (hp : 0 < p.toNat) :
    (fwd x k p).toNat = (x.toNat ^ 3 % p.toNat + k.toNat) % 2 ^ 52 := by
  rw [fwd, toNat_add52, toNat_cube3 _ _ hp]

/-! ### Cube and power undo each other (R117, R140 items 1 and 2) -/

/-- R117: Fermat's theorem twice, `3 e = (p - 1) + p`; the residue 0 needs no case of its own. -/
theorem pow_three_mul_exponent {p : Nat} (hprime : p.Prime) (h3 : p % 3 = 2) (a : Nat) :
    a ^ (3 * ((2 * p - 1) / 3)) % p = a % p := by
  have : Fact p.Prime := ⟨hprime⟩
  have hsplit : 3 * ((2 * p - 1) / 3) = (p - 1) + p := by
    have := hprime.pos
    omega
  have hfermat : (a : ZMod p) ^ (3 * ((2 * p - 1) / 3)) = a := by
    calc (a : ZMod p) ^ (3 * ((2 * p - 1) / 3))
        = (a : ZMod p) ^ (p - 1) * (a : ZMod p) ^ p := by rw [hsplit, pow_add]
      _ = (a : ZMod p) ^ (p - 1) * a := by rw [ZMod.pow_card]
      _ = (a : ZMod p) ^ p := pow_sub_one_mul hprime.ne_zero _
      _ = a := ZMod.pow_card _
  exact (ZMod.natCast_eq_natCast_iff' _ a p).mp (by rw [Nat.cast_pow, hfermat])

theorem toNat_cube3_modpow {p : Field} (hprime : p.toNat.Prime) (h3 : p.toNat % 3 = 2) (x : Field) :
    (cube3 (modpow x (exponentOf p) p) p).toNat = x.toNat % p.toNat := by
  rw [toNat_cube3 _ _ hprime.pos, toNat_modpow _ _ _ hprime.pos, ← Nat.pow_mod, ← pow_mul, mul_comm,
    toNat_exponentOf, pow_three_mul_exponent hprime h3]

theorem toNat_modpow_cube3 {p : Field} (hprime : p.toNat.Prime) (h3 : p.toNat % 3 = 2) (x : Field) :
    (modpow (cube3 x p) (exponentOf p) p).toNat = x.toNat % p.toNat := by
  rw [toNat_modpow _ _ _ hprime.pos, toNat_cube3 _ _ hprime.pos, ← Nat.pow_mod, ← pow_mul, toNat_exponentOf,
    pow_three_mul_exponent hprime h3]

/-! ### The round functions undo each other as far as `canon` allows (R140 items 3 and 4) -/

theorem canon_of_lt {v p : Field} (h : v < p) : canon v p = v := if_neg (BitVec.not_le.mpr h)

theorem canon_of_le {v p : Field} (h : p ≤ v) : canon v p = v - p := if_pos h

/-- R140 item 3: a forward round puts the key back on the canonical difference. -/
theorem fwd_bwd {plo : BitVec 32} (hprime : (modulus plo).toNat.Prime) (h3 : (modulus plo).toNat % 3 = 2)
    (x : Field) (k : Word) :
    fwd (bwd x k (exponentOf (modulus plo)) (modulus plo)) k (modulus plo)
      = add52 (canon (sub52 x k) (modulus plo)) k := by
  have hcanon : cube3 (modpow (sub52 x k) (exponentOf (modulus plo)) (modulus plo)) (modulus plo)
      = canon (sub52 x k) (modulus plo) :=
    BitVec.eq_of_toNat_eq (by rw [toNat_cube3_modpow hprime h3, toNat_canon_modulus])
  rw [fwd, bwd, hcanon]

/-- R140 item 4: the key cancels exactly, so a backward round recovers the residue. -/
theorem bwd_fwd {plo : BitVec 32} (hprime : (modulus plo).toNat.Prime) (h3 : (modulus plo).toNat % 3 = 2)
    (x : Field) (k : Word) :
    bwd (fwd x k (modulus plo)) k (exponentOf (modulus plo)) (modulus plo) = canon x (modulus plo) := by
  rw [bwd, fwd, sub52_add52]
  exact BitVec.eq_of_toNat_eq (by rw [toNat_modpow_cube3 hprime h3, toNat_canon_modulus])

/-- R85: a difference reduced by `p` before the key is put back leaves the value reduced by `p`. -/
theorem add52_sub52_sub (x p : Field) (k : Word) : add52 (sub52 x k - p) k = x - p := by
  rw [add52, sub52]
  ring

theorem sub_modulus_ne (x : Field) (plo : BitVec 32) : x - modulus plo ≠ x := by
  have hp : modulus plo ≠ 0#52 := fun h => (modulus_pos plo).ne' (by rw [h, BitVec.toNat_zero])
  exact fun h => hp (sub_eq_self.mp h)

/-! ### Frames: a command that writes X alone, and CHECK -/

/-- The frame of a command that wrote `v` to X, in terms of the X it left. -/
theorem SameData.with_x {s t : State} {v : Field} (h : SameData { s with x := v } t) :
    SameData { s with x := t.x } t := by
  have hx : t.x = v := h.x
  rwa [hx]

/-- R134: CHECK writes no data register. -/
theorem sameData_effectOf_check (s : State) : SameData s (effectOf .check s) := by
  constructor <;> rfl

/-! ### The walks as functions of their inputs (R137, R138) -/

/-- R20: no command writes CH. -/
@[simp] theorem challengeWritten_markOutputs (o : Outputs) (w : Written) :
    challengeWritten (markOutputs o w) = challengeWritten w := rfl

/-- The record of what is written after any command of an idle block. -/
theorem written_of_exec {i : Instr} {s t : State} (hb : s.busy = false) (h : exec i s = .next t) :
    t.written = markOutputs (outputsOf i) s.written := by
  rw [exec_of_idle hb] at h
  cases h
  simp

/-- R113: a walk that leaves the keys `k` and their prime's stored half leaves P at the modulus the keys select. -/
theorem p_of_selected_prime {t : State} {k : Keys} (hk : t.k = k) (hplo : t.plo = Config.primeTable (primeIndex k)) :
    t.p = selectedModulus Config.primeTable t.k := by
  rw [State.p, hplo, hk, selectedModulus]

/-- R137: DELAY leaves in X the value of `delayFn`. -/
theorem exec_delay_of_inputs_written {s : State} (hb : s.busy = false) (hin : readsWritten s.written .delay = true) :
    ∃ t, exec .delay s = .next t ∧ Completed s t ∧ t.k = schedule Config.enc s.ch
      ∧ t.p = selectedModulus Config.primeTable t.k
      ∧ t.x = delayFn Config.enc Config.primeTable s.ch s.rounds.toNat := by
  obtain ⟨t, hexec, hdone, -, hdata⟩ := exec_of_inputs_written hb hin
  have hk : t.k = schedule Config.enc s.ch := hdata.k
  exact ⟨t, hexec, hdone, hk, p_of_selected_prime hk hdata.plo, hdata.x⟩

/-- R138: VERIFY leaves in OK the answer of `verifyFn` on the proof in X. -/
theorem exec_verify_of_inputs_written {s : State} (hb : s.busy = false)
    (hin : readsWritten s.written .verify = true) :
    ∃ t, exec .verify s = .next t ∧ Completed s t ∧ t.k = schedule Config.enc s.ch
      ∧ t.p = selectedModulus Config.primeTable t.k
      ∧ t.ok = verifyFn Config.enc Config.primeTable s.ch s.rounds.toNat s.x := by
  obtain ⟨t, hexec, hdone, hok, hdata⟩ := exec_of_inputs_written hb hin
  have hk : t.k = schedule Config.enc s.ch := hdata.k
  exact ⟨t, hexec, hdone, hk, p_of_selected_prime hk hdata.plo, hok⟩

/-- R142: no backward round leaves the seed. -/
theorem delayFn_zero (enc : Block → Block) (table : BitVec 10 → BitVec 32) (ch : Challenge) :
    delayFn enc table ch 0 = seedOf (schedule enc ch) (selectedModulus table (schedule enc ch)) := rfl

/-- R142: with no forward round the proof itself is compared. -/
theorem verifyFn_zero_iff (enc : Block → Block) (table : BitVec 10 → BitVec 32) (ch : Challenge) (x : Field) :
    verifyFn enc table ch 0 x = true ↔
      x.toNat % (selectedModulus table (schedule enc ch)).toNat
        = (schedule enc ch)[33].toNat % (selectedModulus table (schedule enc ch)).toNat :=
  verifyEq_iff x _ (modulus_pos _)

theorem toNat_seedOf (k : Keys) {p : Field} (hp : 0 < p.toNat) : (seedOf k p).toNat = k[33].toNat % p.toNat :=
  toNat_mod64 _ _ hp

/-! ### The statements -/

/-- Settles O27: the value left in X is the `bwd` of R130. -/
theorem rndbRunsOneBackwardRound : Obligations.RndbRunsOneBackwardRound := by
  intro ki s hb hx hk he hp
  have hin : readsWritten s.written (.rndb ki) = true := by simp [readsWritten, hx, hk, he, hp]
  have hpos : 0 < s.p.toNat := modulus_pos s.plo
  obtain ⟨t, hexec, hdone, hok, hdata⟩ := exec_of_inputs_written hb hin
  have hval : t.x = bwd s.x (windowKey s.k ki) s.e s.p := hdata.x
  exact ⟨t, hexec, hdone, hok, hval ▸ toNat_bwd _ _ _ hpos, hval ▸ bwd_lt _ _ _ hpos, hdata.with_x⟩

/-- Settles O28: the value left in X is the `fwd` of R131; E need not be written. -/
theorem rndfRunsOneForwardRound : Obligations.RndfRunsOneForwardRound := by
  intro ki s hb hx hk hp
  have hin : readsWritten s.written (.rndf ki) = true := by simp [readsWritten, hx, hk, hp]
  obtain ⟨t, hexec, hdone, hok, hdata⟩ := exec_of_inputs_written hb hin
  have hval : t.x = fwd s.x (windowKey s.k ki) s.p := hdata.x
  exact ⟨t, hexec, hdone, hok, hval ▸ toNat_fwd _ _ (modulus_pos s.plo), hdata.with_x⟩

/-- Settles O29: OK is the comparison `verifyEq`. -/
theorem checkComparesResidues : Obligations.CheckComparesResidues := by
  refine ⟨decode_encode .check, fun s hb hx hk hp => ?_⟩
  have hin : readsWritten s.written .check = true := by simp [readsWritten, hx, hk, hp]
  obtain ⟨t, hexec, hdone, hok, hdata⟩ := exec_of_inputs_written hb hin
  have hval : t.ok = verifyEq s.x s.k[33] s.p := hok
  exact ⟨t, hexec, hdone, (sameData_effectOf_check s).trans hdata,
    hval ▸ verifyEq_iff s.x s.k[33] (modulus_pos s.plo)⟩

/-- Settles O32: DELAY of no rounds leaves the seed, and VERIFY of no rounds compares what stands in X; the record
DELAY leaves shows X written. -/
theorem zeroRoundsLeaveTheSeed : Obligations.ZeroRoundsLeaveTheSeed := by
  intro s hb hch hrw hzero
  have hchallenge : challengeWritten s.written = true := (challengeWritten_iff _).mpr hch
  refine ⟨?delayThenVerify, fun hx => ?verify⟩
  case delayThenVerify =>
    obtain ⟨t, hdelay, hdone, hk, hp, hx⟩ :=
      exec_delay_of_inputs_written hb (by simp [readsWritten, hchallenge, hrw])
    have hin : readsWritten t.written .verify = true := by
      rw [written_of_exec hb hdelay]
      simp [readsWritten, outputsOf, hchallenge, hrw]
    obtain ⟨v, hverify, -, -, -, hok⟩ := exec_verify_of_inputs_written hdone.busy hin
    have hseed : t.x = seedOf t.k t.p := by rw [hx, hzero, BitVec.toNat_zero, delayFn_zero, hp, hk]
    have hval : t.x.toNat = t.k[33].toNat % t.p.toNat := by
      rw [hseed]
      exact toNat_seedOf t.k (modulus_pos t.plo)
    refine ⟨t, v, hdelay, hval, hverify, ?_⟩
    rw [hok, hdone.rounds, hzero, BitVec.toNat_zero, hdone.ch, verifyFn_zero_iff, ← hk, ← hp, hval, Nat.mod_mod]
  case verify =>
    obtain ⟨u, hverify, -, hk, hp, hok⟩ :=
      exec_verify_of_inputs_written hb (by simp [readsWritten, hchallenge, hrw, hx])
    refine ⟨u, hverify, ?_⟩
    rw [hok, hzero, BitVec.toNat_zero, verifyFn_zero_iff, ← hk, ← hp]

/-- Settles O53: both compositions of the rounds are a `canon`, of the difference or of the value itself. -/
theorem roundsInvertEachOther : Obligations.RoundsInvertEachOther := by
  intro plo x k p e hprime h3
  refine ⟨toNat_cube3_modpow hprime h3 x, toNat_modpow_cube3 hprime h3 x, fun hlt => ?_, fun hle => ?_,
    fun hlt => ?_, fun hle => ?_⟩
  · rw [fwd_bwd hprime h3, canon_of_lt hlt, add52_sub52]
  · have hround : fwd (bwd x k e p) k p = x - p := by rw [fwd_bwd hprime h3, canon_of_le hle, add52_sub52_sub]
    exact ⟨hround, hround ▸ sub_modulus_ne x plo⟩
  · rw [bwd_fwd hprime h3, canon_of_lt hlt]
  · rw [bwd_fwd hprime h3, canon_of_le hle]

end Sys2Proof.Machine

/-! PROOFS of the family `43_system.md`: the bits of the STATUS and CTRL words, what a host write of those two
registers does to the next state, and the engine's completing step as NOP takes it. -/

namespace Sys2Proof.Machine

/-! ### The words STATUS and CTRL read as (R22, R23, R166) -/

/-- R166, bit by bit; from bit 8 on, past the end of ERRCODE, the last case gives 0. -/
theorem getLsbD_statusWord (s : State) (i : Nat) : (statusWord s).getLsbD i =
    if i = 0 then s.busy else if i = 1 then s.done else if i = 2 then s.ok else if i = 3 then s.err
    else s.errcode.getLsbD (i - 4) := by
  simp only [statusWord, BitVec.getLsbD_setWidth, BitVec.getLsbD_append, BitVec.getLsbD_ofBool]
  match i with
  | 0 | 1 | 2 | 3 => simp
  | i + 4 =>
    have hin (hset : s.errcode.getLsbD i = true) : i + 4 < 64 := by
      have := BitVec.lt_of_getLsbD hset
      omega
    simpa using hin

theorem statusWord_flags (s : State) :
    (statusWord s)[0] = s.busy ∧ (statusWord s)[1] = s.done ∧ (statusWord s)[2] = s.ok
      ∧ (statusWord s)[3] = s.err := by
  simp [← BitVec.getLsbD_eq_getElem, getLsbD_statusWord]

theorem statusWord_errcode (s : State) : (statusWord s).extractLsb' 4 4 = s.errcode := by
  apply BitVec.eq_of_getLsbD_eq
  intro i hi
  simp [getLsbD_statusWord, hi, show 4 + i ≠ 1 ∧ 4 + i ≠ 2 ∧ 4 + i ≠ 3 by omega]

theorem statusWord_upper (s : State) : (statusWord s).extractLsb' 8 56 = 0#56 := by
  apply BitVec.eq_of_getLsbD_eq
  intro i hi
  have hpast : s.errcode.getLsbD (8 + i - 4) = false := BitVec.getLsbD_of_ge _ _ (by omega)
  simp [getLsbD_statusWord, hpast, show 8 + i ≠ 1 ∧ 8 + i ≠ 2 ∧ 8 + i ≠ 3 by omega]

/-- R22, R166: the word has the two values 0 and 1. -/
theorem ctrlWord_fields (s : State) : (ctrlWord s)[0] = s.ie ∧ (ctrlWord s).extractLsb' 1 63 = 0#63 := by
  rw [ctrlWord]
  cases s.ie <;> decide

/-! ### Reads and writes of the two registers, busy or not (R161, R162, R163) -/

theorem step_read_of_unowned (s : State) {n : RegNum} (rest : List Event) (h : (regOf n).owned = false) :
    step { s with inputs := .read n :: rest }
      = .next { s with inputs := rest, rdata := some (regValue { s with inputs := rest } (regOf n)) } := by
  rw [step_read, regRead_of_unowned h]

theorem step_write_status {s : State} {v : Word} {rest : List Event} (h : s.inputs = .write 0x02#7 v :: rest) :
    step s = .next (writeStatus v { s with inputs := rest }) :=
  step_of_cons h

theorem step_write_ctrl {s : State} {v : Word} {rest : List Event} (h : s.inputs = .write 0x01#7 v :: rest) :
    step s = .next (writeCtrl v { s with inputs := rest }) :=
  step_of_cons h

theorem step_rst (s : State) (rest : List Event) :
    step { s with inputs := .rst :: rest } = .next (resetBlock { s with inputs := rest }) := rfl

/-! ### The completing step (R139) -/

theorem phaseStep_fin {cmd : Instr} {ph : Phase} {s : State} (h : ph.stage = .fin) :
    phaseStep cmd ph s = complete cmd s := by
  simp [phaseStep, h]

/-- R160: NOP starts in stage FIN, so its first engine step completes it. -/
theorem engineStep_accept_nop (s : State) : engineStep (accept .nop s) = complete .nop (accept .nop s) := by
  rw [engineStep_of_run (accept_seq .nop s), phaseStep_fin rfl]

/-! ### The statements -/

/-- Settles O12: neither register is ever owned by the engine, so the reads give `statusWord` and `ctrlWord` at every
state. -/
theorem statusAndCtrlReads : Obligations.StatusAndCtrlReads := by
  intro s rest
  obtain ⟨hbusy, hdone, hok, herr⟩ := statusWord_flags s
  exact ⟨⟨statusWord s, step_read_of_unowned s rest rfl, hbusy, hdone, hok, herr, statusWord_errcode s,
      statusWord_upper s⟩,
    ctrlWord s, step_read_of_unowned s rest rfl, ctrlWord_fields s⟩

/-- Settles O10: `writeStatus` is that one update of three fields, at every state. -/
theorem statusWriteOneToClear : Obligations.StatusWriteOneToClear := by
  intro s v rest hin
  rw [step_write_status hin, writeStatus_eq]

/-- Settles O11: the two cases of `writeCtrl`, the first being the reset input's own operation. -/
theorem ctrlWriteSetsInterruptEnableOrResets : Obligations.CtrlWriteSetsInterruptEnableOrResets := by
  intro s v rest hin
  refine ⟨fun hreset => ?reset, fun henable => ?enable⟩
  case reset => rw [step_write_ctrl hin, writeCtrl_of_reset hreset, step_rst]
  case enable =>
    exact ⟨_, step_write_ctrl hin, writeCtrl_of_enable henable, writeCtrl_irq_of_enable henable⟩

/-- Settles O19: NOP reads nothing, so its inputs are always written and completion leaves the data and the OK that
acceptance cleared. -/
theorem nopCompletes : Obligations.NopCompletes := by
  refine ⟨decode_encode .nop, fun s hb => ?_⟩
  have hin : readsWritten (accept .nop s).written .nop = true := rfl
  obtain ⟨hdata, hok⟩ := complete_data_of_written hin
  exact ⟨complete .nop (accept .nop s), exec_of_idle hb, completed_complete_effectOf .nop s,
    (effectOf_accept_data .nop s).trans hdata, hok, complete_irq .nop (accept .nop s), engineStep_accept_nop s⟩

end Sys2Proof.Machine

/-! PROOFS of the family `60_exceptions.md`: the one error action in its two cases (R171), and that ERR is otherwise
only kept or cleared, whatever the event. -/

namespace Sys2Proof.Machine

/-! ### The raise itself (R171, R172) -/

theorem raiseErr_of_clear {c : ErrCode} {s : State} (h : s.err = false) :
    raiseErr c s = { s with err := true, errcode := errNumber c } := by
  simp [raiseErr, h]

/-- R171: the first error since the last clear stays the recorded one. -/
theorem raiseErr_of_set {c : ErrCode} {s : State} (h : s.err = true) : raiseErr c s = s := by
  rw [raiseErr, if_pos h, ← h]

theorem errNumber_range (c : ErrCode) : 1 ≤ (errNumber c).toNat ∧ (errNumber c).toNat ≤ 5 := by
  cases c <;> decide

/-! ### Host transfers and commands that keep ERR -/

@[simp] theorem storeReg_err (v : Word) (s : State) (reg : Reg) : (storeReg v s reg).err = s.err := by
  cases reg <;> rfl

@[simp] theorem regRead_err (n : RegNum) (s : State) : (regRead n s).err = s.err := rfl

/-- R161, R163: CTRL keeps ERR, or clears it by a soft reset. -/
theorem writeCtrl_err_of_clear {v : Word} {s : State} (h : s.err = false) : (writeCtrl v s).err = false := by
  cases hv : v[1]
  case false => rw [writeCtrl_of_enable hv, h]
  case true => rw [writeCtrl_of_reset hv, resetBlock_err]

/-- R162: STATUS keeps ERR or clears it. -/
theorem writeStatus_err_of_clear {v : Word} {s : State} (h : s.err = false) : (writeStatus v s).err = false := by
  simp [writeStatus_eq, h]

/-- R20: no command's Operation touches ERR. -/
@[simp] theorem effectOf_err (i : Instr) (s : State) : (effectOf i s).err = s.err := by
  cases i with
  -- not by `rfl`, which here compares the schedule with `s.k` (see `effectOf_written`)
  | fillk => simp only [effectOf, fillkEffect]
  | nop | mulmod | modpow | cube | selp | ldp | calce | seed | rndb | rndf | check | delay | verify => rfl

theorem exec_err_of_idle {i : Instr} {s t : State} (hb : s.busy = false) (h : exec i s = .next t) :
    t.err = s.err := by
  rw [exec_of_idle hb] at h
  cases h
  simp

/-! ### The block's own steps keep ERR (R139, R48) -/

@[simp] theorem arEffect_err (s : State) (i : Instr) : (arEffect s i).err = s.err := by
  cases i <;> rfl

@[simp] theorem arStep_err (cmd : Instr) (ph : Phase) (s : State) : (arStep cmd ph s).err = s.err := arEffect_err s cmd

@[simp] theorem fkAbsorb_err (y : Block) (cmd : Instr) (ph : Phase) (s : State) :
    (fkAbsorb y cmd ph s).err = s.err := rfl

@[simp] theorem spStep_err (cmd : Instr) (ph : Phase) (s : State) : (spStep cmd ph s).err = s.err := by
  unfold spStep
  split <;> rfl

@[simp] theorem sdStep_err (cmd : Instr) (ph : Phase) (s : State) : (sdStep cmd ph s).err = s.err := rfl

@[simp] theorem rbStep_err (cmd : Instr) (ph : Phase) (s : State) : (rbStep cmd ph s).err = s.err := by
  by_cases h : ph.r = ph.n
  · rw [rbStep_of_done h]
  · rw [rbStep_of_round h]

@[simp] theorem rfStep_err (cmd : Instr) (ph : Phase) (s : State) : (rfStep cmd ph s).err = s.err := by
  by_cases h : ph.r = ph.n
  · rw [rfStep_of_done h]
  · rw [rfStep_of_round h]

/-- No row of R139's table raises an error. -/
@[simp] theorem phaseStep_err (cmd : Instr) (ph : Phase) (s : State) : (phaseStep cmd ph s).err = s.err := by
  cases hstage : ph.stage with
  | fk =>
    cases ho : s.outstanding with
    | none => rw [phaseStep_fk hstage ho, fkAbsorb_err]
    | some b => rw [phaseStep_fk_waiting hstage ho]
  | ck => simp [phaseStep, hstage, checkEffect]
  | ar | sp | sd | rb | rf | fin => simp [phaseStep, hstage]

@[simp] theorem engineStep_err (s : State) : (engineStep s).err = s.err := by
  cases h : s.seq with
  | idle => rw [engineStep_of_idle h]
  | run cmd ph => rw [engineStep_of_run h, phaseStep_err]

@[simp] theorem cipherRequest_err (s : State) : (cipherRequest s).err = s.err := by
  unfold cipherRequest
  split
  · split <;> rfl
  · rfl
  · rfl

@[simp] theorem cipherAnswer_err (s : State) : (cipherAnswer s).err = s.err := by
  unfold cipherAnswer
  split
  · rfl
  · split
    · rfl
    · split <;> rfl

@[simp] theorem ownTurn_err (s : State) : (ownTurn s).err = s.err := by
  cases h : s.outstanding <;> simp [ownTurn, h]

/-! ### What sets ERR is a raise, and nothing more (R171, R172) -/

section SetsErr

variable {s t : State}

/-- A command issue is a raise, or runs on from a command that was accepted. -/
theorem raise_of_issueWith_sets_err {run : Instr → State → Host.Outcome State Fault Refusal} {w : Word}
    (hrun : ∀ i, s.busy = false → run i s = .next t → t.err = s.err) (h : issueWith run w s = .next t)
    (hclear : s.err = false) (hset : t.err = true) : ∃ c, t = raiseErr c s := by
  obtain ⟨-, hbusy⟩ | ⟨hidle, i, -, haccepted⟩ | ⟨-, d, -, hmalformed⟩ := issueWith_cases h
  · exact ⟨_, hbusy⟩
  · simp [hrun i hidle haccepted, hclear] at hset
  · exact ⟨_, hmalformed⟩

theorem raise_of_writeOwned_sets_err {v : Word} {reg : Reg} (hclear : s.err = false)
    (hset : (writeOwned v reg s).err = true) : writeOwned v reg s = raiseErr .busyWrite s := by
  cases hb : s.busy
  case false => simp [writeOwned_of_idle hb, hclear] at hset
  case true => exact writeOwned_of_busy hb

theorem raise_of_regWrite_sets_err {n : RegNum} {v : Word} (h : regWrite n v s = .next t)
    (hclear : s.err = false) (hset : t.err = true) : ∃ c, t = raiseErr c s := by
  obtain ⟨-, rfl⟩ | ⟨-, rfl⟩ | ⟨-, hissue⟩ | ⟨-, hbad⟩ | ⟨-, -, rfl⟩ := regWrite_cases h
  · simp [writeCtrl_err_of_clear hclear] at hset
  · simp [writeStatus_err_of_clear hclear] at hset
  · refine raise_of_issueWith_sets_err (fun i _ haccepted => ?_) hissue hclear hset
    cases haccepted
    exact accept_err i s
  · exact ⟨_, hbad⟩
  · exact ⟨_, raise_of_writeOwned_sets_err hclear hset⟩

/-- Only the two host write events can set ERR; the others keep it or, as a reset does, clear it. -/
theorem raise_of_handle_sets_err {ev : Event} (h : handle exec s ev = .next t) (hclear : s.err = false)
    (hset : t.err = true) :
    ((∃ n v, ev = .write n v) ∨ ∃ w, ev = .command w) ∧ ∃ c, t = raiseErr c s := by
  cases ev with
  | write n v => exact ⟨.inl ⟨n, v, rfl⟩, raise_of_regWrite_sets_err h hclear hset⟩
  | command w =>
    exact ⟨.inr ⟨w, rfl⟩, raise_of_issueWith_sets_err (fun _ => exec_err_of_idle) h hclear hset⟩
  | rst | read | engine | cipherRequest | cipherAnswer =>
    cases h
    simp [hclear] at hset

end SetsErr

/-! ### The statements -/

/-- Settles O6: the two cases of the raise, and the numbers of the five codes. -/
theorem raiseErrChangesOnlyErrAndErrcode : Obligations.RaiseErrChangesOnlyErrAndErrcode :=
  fun c _ => ⟨raiseErr_of_clear, raiseErr_of_set, errNumber_range c⟩

/-- Settles O56: with no event pending the block's own turn keeps ERR, so there is an event, and it is a host write
that ended in a raise. -/
theorem onlyHostWritesSetErr : Obligations.OnlyHostWritesSetErr := by
  intro s t h hclear hset
  obtain ⟨-, rfl⟩ | ⟨ev, rest, hin, hhandle⟩ := step_cases h
  · simp [hclear] at hset
  · obtain ⟨hwrite, c, hraise⟩ := raise_of_handle_sets_err hhandle hclear hset
    exact ⟨ev, rest, c, hin, hwrite, hraise⟩

end Sys2Proof.Machine

/-! PROOFS of the family `70_reset_and_hazards.md`: which registers a command writes, as the list of the commands that
write each (R20), the record of what is written since reset, and the free values a command leaves when an input is
unwritten (R196). -/

namespace Sys2Proof.Machine

/-! ### The column "writes" of R20, register by register -/

theorem outputsOf_r_iff (i : Instr) : (outputsOf i).r = true ↔ i = .mulmod ∨ i = .modpow ∨ i = .cube := by
  cases i <;> simp [outputsOf]

theorem outputsOf_p_iff (i : Instr) :
    (outputsOf i).p = true ↔ i = .selp ∨ (∃ ti, i = .ldp ti) ∨ i = .delay ∨ i = .verify := by
  cases i <;> simp [outputsOf]

theorem outputsOf_e_iff (i : Instr) :
    (outputsOf i).e = true ↔ i = .selp ∨ (∃ ti, i = .ldp ti) ∨ i = .calce ∨ i = .delay := by
  cases i <;> simp [outputsOf]

theorem outputsOf_x_iff (i : Instr) :
    (outputsOf i).x = true ↔
      i = .seed ∨ (∃ ki, i = .rndb ki) ∨ (∃ ki, i = .rndf ki) ∨ i = .delay ∨ i = .verify := by
  cases i <;> simp [outputsOf]

theorem outputsOf_k_iff (i : Instr) : (outputsOf i).k = true ↔ i = .fillk ∨ i = .delay ∨ i = .verify := by
  cases i <;> simp [outputsOf]

theorem outputsOf_ok_iff (i : Instr) : (outputsOf i).ok = true ↔ i = .check ∨ i = .verify := by
  cases i <;> simp [outputsOf]

/-! ### The record of what is written (R196) -/

/-- A command that writes K writes every word of it. -/
theorem markOutputs_getElem_k (o : Outputs) (w : Written) (j : Fin 34) :
    (markOutputs o w).k[j] = (w.k[j] || o.k) := by
  cases h : o.k <;> simp [h]

/-! ### Free values (R196, U4) -/

/-- R20: an Operation computes; it uses up no free value. -/
@[simp] theorem effectOf_draws (i : Instr) (s : State) : (effectOf i s).draws = s.draws := by
  cases i with
  -- not by `rfl`, which here compares the schedule with `s.k` (see `effectOf_written`)
  | fillk => simp only [effectOf, fillkEffect]
  | nop | mulmod | modpow | cube | selp | ldp | calce | seed | rndb | rndf | check | delay | verify => rfl

/-- R20, R164: OK stays as acceptance cleared it, but for the two commands that write it. -/
theorem effectOf_accept_ok {i : Instr} {s : State} (h : (outputsOf i).ok = false) :
    (effectOf i (accept i s)).ok = false := by
  cases i with
  | check | verify => cases h
  | fillk => simp only [effectOf, fillkEffect, accept_ok]
  | nop | mulmod | modpow | cube | selp | ldp | calce | seed | rndb | rndf | delay => rfl

/-- Each of the draws a completion takes is one no earlier event used. -/
theorem freshDraw_of_lt {s t : State} {n : Nat} (w : Nat) (ht : t.draws = s.draws + drawsPerCompletion)
    (hn : n < drawsPerCompletion) : freshDraw s t (drawn w (s.draws + n)) :=
  ⟨s.draws + n, by omega, by omega, rfl⟩

/-- OK takes the lowest bit of a draw, which is the draw at width 1. -/
theorem ofBool_draw (n : Nat) : BitVec.ofBool (Config.draw n)[0] = drawn 1 n := by
  apply BitVec.eq_of_getLsbD_eq
  intro i hi
  obtain rfl : i = 0 := by omega
  simp [drawn]

/-- R196, U4: an idle block with an input of the command unwritten ends the command with a free value in each register
it writes. -/
theorem exec_of_input_unwritten {i : Instr} {s : State} (hb : s.busy = false)
    (hin : readsWritten s.written i = false) :
    ∃ t, exec i s = .next t ∧ Completed s t
      ∧ ((outputsOf i).r = true → freshDraw s t t.r)
      ∧ ((outputsOf i).k = true → ∀ j : Fin 34, freshDraw s t t.k[j])
      ∧ ((outputsOf i).p = true → freshDraw s t t.plo)
      ∧ ((outputsOf i).e = true → freshDraw s t t.e)
      ∧ ((outputsOf i).x = true → freshDraw s t t.x)
      ∧ ((outputsOf i).ok = true → freshDraw s t (BitVec.ofBool t.ok))
      ∧ ((outputsOf i).ok = false → t.ok = false) := by
  have hdraws : (complete i (effectOf i (accept i s))).draws = s.draws + drawsPerCompletion := by simp
  have hfree {w n : Nat} (hn : n < drawsPerCompletion) := freshDraw_of_lt w hdraws hn
  refine ⟨_, exec_of_idle hb, completed_complete_effectOf i s, fun ho => ?inR, fun ho j => ?inK, fun ho => ?inP,
    fun ho => ?inE, fun ho => ?inX, fun ho => ?inOk, fun ho => ?okCleared⟩
  case inR => simpa [hin, ho] using hfree (n := 13) (by decide)
  case inK =>
    have hj : 18 + j.val < drawsPerCompletion := by
      rw [drawsPerCompletion]
      omega
    simpa [hin, ho, Nat.add_assoc] using hfree hj
  case inP => simpa [hin, ho] using hfree (n := 14) (by decide)
  case inE => simpa [hin, ho] using hfree (n := 15) (by decide)
  case inX => simpa [hin, ho] using hfree (n := 16) (by decide)
  case inOk => simpa [hin, ho, ofBool_draw] using hfree (n := 17) (by decide)
  case okCleared => simp [ho, effectOf_accept_ok ho]

/-! ### The statements -/

/-- Settles O58: a reset clears the record, an idle write is the plain store of its register, and a command marks the
registers of its row of R20. -/
theorem writtenRecordFollowsTheWrites : Obligations.WrittenRecordFollowsTheWrites := by
  refine ⟨rfl, fun s rest => ⟨_, step_rst s rest, rfl⟩, fun s v rest hb => ?write, fun i s hb => ?command⟩
  case write =>
    exact ⟨⟨_, step_write_of_idle .rounds rfl nofun hb, rfl⟩,
      ⟨_, step_write_of_idle .a rfl nofun hb, rfl⟩,
      ⟨_, step_write_of_idle .b rfl nofun hb, rfl⟩,
      ⟨_, step_write_of_idle .e rfl nofun hb, rfl⟩,
      ⟨_, step_write_of_idle .p rfl nofun hb, rfl⟩,
      ⟨_, step_write_of_idle .x rfl nofun hb, rfl⟩,
      fun c => ⟨_, step_write_of_idle (.ch c) rfl nofun hb, rfl⟩,
      fun j => ⟨_, step_write_of_idle (.k j) rfl nofun hb, rfl⟩⟩
  case command =>
    have hexec := exec_of_idle (i := i) hb
    refine ⟨_, hexec, ?_⟩
    rw [written_of_exec hb hexec, ← outputsOf_p_iff, ← outputsOf_e_iff, ← outputsOf_x_iff, ← outputsOf_k_iff]
    refine ⟨rfl, rfl, rfl, rfl, ?p, ?e, ?x, fun j => ?k⟩
    case p => rw [markOutputs_p, Bool.or_eq_true]
    case e => rw [markOutputs_e, Bool.or_eq_true]
    case x => rw [markOutputs_x, Bool.or_eq_true]
    case k => rw [markOutputs_getElem_k, Bool.or_eq_true]

/-- Settles O59: `exec_of_input_unwritten`, with each column of R20 read as its list of commands. -/
theorem unwrittenInputFreesTheResults : Obligations.UnwrittenInputFreesTheResults := by
  intro i s hb hin
  obtain ⟨t, hexec, hdone, hr, hk, hp, he, hx, hok, hokKept⟩ := exec_of_input_unwritten hb hin
  rw [outputsOf_r_iff] at hr
  rw [outputsOf_k_iff] at hk
  rw [outputsOf_x_iff] at hx
  refine ⟨t, hexec, hdone, hr, hk, fun h => hp ?p, fun h => he ?e, hx, ?ok⟩
  case p =>
    obtain rfl | rfl | rfl := h <;> rfl
  case e =>
    obtain rfl | rfl | rfl := h <;> rfl
  case ok =>
    split
    next h => exact hok ((outputsOf_ok_iff i).mpr h)
    next h => exact hokKept (Bool.eq_false_iff.mpr fun ho => h ((outputsOf_ok_iff i).mp ho))

/-- Settles O57: the rows of at most one register hold by the definition, FILLK's is `challengeWritten_iff`, and the
others are conjunctions of such tests. -/
theorem setupTableOfTheCommands : Obligations.SetupTableOfTheCommands := by
  intro w ti ki
  refine ⟨rfl, ?mulmod, ?modpow, ?cube, challengeWritten_iff w, Iff.rfl, rfl, Iff.rfl, ?seed, ?rndb, ?rndf, ?check,
    ?delay, ?verify⟩
  case delay | verify => simp only [readsWritten, Bool.and_eq_true, and_assoc, challengeWritten_iff]
  case mulmod | modpow | cube | seed | rndb | rndf | check => simp only [readsWritten, Bool.and_eq_true, and_assoc]

end Sys2Proof.Machine

/-! PROOFS of the encoding's statements of the family `other`: what each format test accepts, so that a word that
decodes is the command's own word, and that a word some row of R63 matches passes the test of that row's format. -/

namespace Sys2Proof.Machine

/-! ### A word a format test accepts is the command's word (R60) -/

theorem eq_of_formatN_ok {w : Word} {i j : Instr} {op : BitVec 8} (h : formatN w i = .ok j) (hop : opField w = op)
    (henc : 0#56 ++ op = encode i) : encode j = w := by
  obtain ⟨hzero, hj⟩ | ⟨-, hj⟩ := ite_eq_iff.mp h <;> cases hj
  rw [word_of_formatN_zero hzero, hop, henc]

theorem eq_of_formatK_ok {w : Word} {mk : BitVec 5 → Instr} {j : Instr} {op : BitVec 8} (h : formatK w mk = .ok j)
    (hop : opField w = op) (henc : ∀ ki, 0#51 ++ ki ++ op = encode (mk ki)) : encode j = w := by
  obtain ⟨hzero, hj⟩ | ⟨-, hj⟩ := ite_eq_iff.mp h <;> cases hj
  have hword := word_of_formatK_zero hzero
  rw [hop] at hword
  exact ((henc _).symm.trans BitVec.append_assoc).trans hword.symm

theorem eq_of_formatT_ok {w : Word} {mk : BitVec 10 → Instr} {j : Instr} {op : BitVec 8} (h : formatT w mk = .ok j)
    (hop : opField w = op) (henc : ∀ ti, 0#38 ++ ti ++ 0#8 ++ op = encode (mk ti)) : encode j = w := by
  obtain ⟨hzero, hj⟩ | ⟨-, hj⟩ := ite_eq_iff.mp h <;> cases hj
  have hword := word_of_formatT_zero hzero
  rw [hop] at hword
  exact (((henc _).symm.trans BitVec.append_assoc).trans BitVec.append_assoc).trans hword.symm

/-- R60, R64: the decoder comes to the format test of the opcode it found, and an accepted word is put together from
its fields. -/
theorem encode_of_decode {w : Word} {i : Instr} (h : decode w = .ok i) : encode i = w := by
  obtain ⟨hop, h⟩ | ⟨-, h⟩ := ite_eq_iff.mp h
  · exact eq_of_formatN_ok h hop rfl
  obtain ⟨hop, h⟩ | ⟨-, h⟩ := ite_eq_iff.mp h
  · exact eq_of_formatN_ok h hop rfl
  obtain ⟨hop, h⟩ | ⟨-, h⟩ := ite_eq_iff.mp h
  · exact eq_of_formatN_ok h hop rfl
  obtain ⟨hop, h⟩ | ⟨-, h⟩ := ite_eq_iff.mp h
  · exact eq_of_formatN_ok h hop rfl
  obtain ⟨hop, h⟩ | ⟨-, h⟩ := ite_eq_iff.mp h
  · exact eq_of_formatN_ok h hop rfl
  obtain ⟨hop, h⟩ | ⟨-, h⟩ := ite_eq_iff.mp h
  · exact eq_of_formatN_ok h hop rfl
  obtain ⟨hop, h⟩ | ⟨-, h⟩ := ite_eq_iff.mp h
  · exact eq_of_formatT_ok h hop fun _ => rfl
  obtain ⟨hop, h⟩ | ⟨-, h⟩ := ite_eq_iff.mp h
  · exact eq_of_formatN_ok h hop rfl
  obtain ⟨hop, h⟩ | ⟨-, h⟩ := ite_eq_iff.mp h
  · exact eq_of_formatN_ok h hop rfl
  obtain ⟨hop, h⟩ | ⟨-, h⟩ := ite_eq_iff.mp h
  · exact eq_of_formatK_ok h hop fun _ => rfl
  obtain ⟨hop, h⟩ | ⟨-, h⟩ := ite_eq_iff.mp h
  · exact eq_of_formatK_ok h hop fun _ => rfl
  obtain ⟨hop, h⟩ | ⟨-, h⟩ := ite_eq_iff.mp h
  · exact eq_of_formatN_ok h hop rfl
  obtain ⟨hop, h⟩ | ⟨-, h⟩ := ite_eq_iff.mp h
  · exact eq_of_formatN_ok h hop rfl
  obtain ⟨hop, h⟩ | ⟨-, h⟩ := ite_eq_iff.mp h
  · exact eq_of_formatN_ok h hop rfl
  cases h

/-! ### A word a row of R63 matches decodes -/

/-- A field that a row's mask keeps whole is the pattern's. -/
theorem field_of_fits {row : OpcodeRow} {w : Word} (h : row.fits w = true) (start len : Nat)
    (hmask : row.mask.extractLsb' start len = BitVec.allOnes len) :
    w.extractLsb' start len = row.pattern.extractLsb' start len := by
  have hfits : w &&& row.mask = row.pattern := by simpa [OpcodeRow.fits] using h
  rw [← hfits, BitVec.extractLsb'_and, hmask, BitVec.and_allOnes]

/-- A row of format N matches its pattern alone. -/
theorem decode_of_fits_whole {row : OpcodeRow} {w : Word} {i : Instr} (h : row.fits w = true)
    (hmask : row.mask = BitVec.allOnes 64) (hd : decode row.pattern = .ok i) : ∃ i, decode w = .ok i := by
  rw [OpcodeRow.fits, hmask, BitVec.and_allOnes] at h
  exact ⟨i, eq_of_beq h ▸ hd⟩

/-- R63, R65: the row's mask keeps the opcode and the fields its format wants zero. -/
theorem decode_of_fits_row {row : OpcodeRow} {w : Word} (hrow : row ∈ opcodeTable) (h : row.fits w = true) :
    ∃ i, decode w = .ok i := by
  simp only [opcodeTable, List.mem_cons, List.not_mem_nil, or_false] at hrow
  obtain rfl | rfl | rfl | rfl | rfl | rfl | rfl | rfl | rfl | rfl | rfl | rfl | rfl | rfl := hrow
  · exact decode_of_fits_whole h rfl (decode_encode .nop)
  · exact decode_of_fits_whole h rfl (decode_encode .mulmod)
  · exact decode_of_fits_whole h rfl (decode_encode .modpow)
  · exact decode_of_fits_whole h rfl (decode_encode .cube)
  · exact decode_of_fits_whole h rfl (decode_encode .fillk)
  · exact decode_of_fits_whole h rfl (decode_encode .selp)
  · have hop : opField w = 0x22#8 := field_of_fits h 0 8 rfl
    have hhigh : w.extractLsb' 26 38 = 0#38 := field_of_fits h 26 38 rfl
    have hmid : w.extractLsb' 8 8 = 0#8 := field_of_fits h 8 8 rfl
    exact ⟨.ldp (tiField w), by simp [decode, hop, formatT, hhigh, hmid]⟩
  · exact decode_of_fits_whole h rfl (decode_encode .calce)
  · exact decode_of_fits_whole h rfl (decode_encode .seed)
  · have hop : opField w = 0x30#8 := field_of_fits h 0 8 rfl
    have hhigh : w.extractLsb' 13 51 = 0#51 := field_of_fits h 13 51 rfl
    exact ⟨.rndb (kiField w), by simp [decode, hop, formatK, hhigh]⟩
  · have hop : opField w = 0x31#8 := field_of_fits h 0 8 rfl
    have hhigh : w.extractLsb' 13 51 = 0#51 := field_of_fits h 13 51 rfl
    exact ⟨.rndf (kiField w), by simp [decode, hop, formatK, hhigh]⟩
  · exact decode_of_fits_whole h rfl (decode_encode .check)
  · exact decode_of_fits_whole h rfl (decode_encode .delay)
  · exact decode_of_fits_whole h rfl (decode_encode .verify)

/-- R64: a word no row matches is refused, with one code or the other. -/
theorem decode_of_not_wellFormed {w : Word} (h : wordWellFormed w = false) : ∃ d, decode w = .error d := by
  have hunfit : ∀ row ∈ opcodeTable, row.fits w = false := by simpa using List.any_eq_false.mp h
  by_cases hany : ∃ row ∈ opcodeTable, opField row.pattern = opField w
  · obtain ⟨row, hrow, hop⟩ := hany
    exact ⟨_, decode_of_unfit_row hrow hop (hunfit row hrow)⟩
  · exact ⟨_, decode_of_no_row fun row hrow hop => hany ⟨row, hrow, hop⟩⟩

/-! ### The statements -/

/-- Settles O1: a word that decodes is put together from its fields, and a command's word decodes to it. -/
theorem decodeInvertsEncode : Obligations.DecodeInvertsEncode :=
  fun _ i => ⟨encode_of_decode, fun h => h ▸ decode_encode i⟩

/-- Settles O2: a word some row matches decodes, and one that none matches is refused. -/
theorem decoderAcceptsExactlyTheTable : Obligations.DecoderAcceptsExactlyTheTable := by
  intro w
  refine ⟨fun ⟨i, hok⟩ => ?_, fun h => ?_⟩
  · by_contra hform
    obtain ⟨d, herror⟩ := decode_of_not_wellFormed (Bool.eq_false_iff.mpr hform)
    rw [hok] at herror
    cases herror
  · obtain ⟨row, hrow, hfits⟩ := List.any_eq_true.mp h
    exact decode_of_fits_row hrow hfits

/-- Settles O3: each is the word of its command, by the round trip. -/
theorem writtenWordsDecode : Obligations.WrittenWordsDecode :=
  ⟨decode_encode .nop, decode_encode .mulmod, decode_encode (.ldp 1023#10), decode_encode (.rndf 3#5),
    decode_encode (.rndb 31#5), decode_encode .delay⟩

end Sys2Proof.Machine

/-! PROOFS of the statements on one step, whatever the event (family `other`): the eight things a step can do to the
block, said once, and from them the invariant of flags, error code, counters and request. -/

namespace Sys2Proof.Machine

/-! ### What one step can do -/

/-- A host transfer that leaves a command alone (R51): it may move CTRL.IE, clear DONE, raise or clear an error, and
move the read port with the counter of free values, and nothing else. -/
structure Undisturbed (s t : State) : Prop where
  data : SameData s t
  busy : t.busy = s.busy
  ok : t.ok = s.ok
  seq : t.seq = s.seq
  hidden : t.hidden = s.hidden
  outstanding : t.outstanding = s.outstanding
  written : t.written = s.written
  done : t.done = true → s.done = true
  err : errOk s → errOk t

theorem errOk_raiseErr {s : State} (c : ErrCode) (h : errOk s) : errOk (raiseErr c s) := by
  cases herr : s.err with
  | true =>
    rw [raiseErr_of_set herr]
    exact h
  | false =>
    rw [raiseErr_of_clear herr]
    exact ⟨nofun, fun _ => errNumber_range c⟩

theorem undisturbed_raiseErr (c : ErrCode) (s : State) : Undisturbed s (raiseErr c s) where
  data := by constructor <;> rfl
  busy := rfl
  ok := rfl
  seq := rfl
  hidden := rfl
  outstanding := rfl
  written := rfl
  done := id
  err := errOk_raiseErr c

theorem undisturbed_regRead (n : RegNum) (s : State) : Undisturbed s (regRead n s) where
  data := by constructor <;> rfl
  busy := rfl
  ok := rfl
  seq := rfl
  hidden := rfl
  outstanding := rfl
  written := rfl
  done := id
  err := id

theorem undisturbed_writeStatus (v : Word) (s : State) : Undisturbed s (writeStatus v s) := by
  rw [writeStatus_eq]
  refine ⟨by constructor <;> rfl, rfl, rfl, rfl, rfl, rfl, rfl, fun h => ?done, fun h => ?err⟩
  case done =>
    cases hv : v[1] <;> simp_all
  case err =>
    cases hv : v[3] with
    | false => simpa [errOk] using h
    | true => simp [errOk]

theorem undisturbed_writeCtrl {v : Word} (s : State) (h : v[1] = false) : Undisturbed s (writeCtrl v s) := by
  rw [writeCtrl_of_enable h]
  exact ⟨by constructor <;> rfl, rfl, rfl, rfl, rfl, rfl, rfl, id, id⟩

/-- What one step does to the block, the event taken off: a reset, a host transfer that leaves a command alone, an
idle store, the acceptance of a command or the whole of one, or a move of the engine or of the cipher port. -/
inductive StepKind (s : State) : State → Prop where
  | reset : StepKind s (resetBlock s)
  | undisturbed {t : State} : Undisturbed s t → StepKind s t
  | store (v : Word) (reg : Reg) : s.busy = false → StepKind s (storeReg v s reg)
  | accepted (i : Instr) : s.busy = false → StepKind s (accept i s)
  | completed (i : Instr) : s.busy = false → StepKind s (complete i (effectOf i (accept i s)))
  | engine : StepKind s (engineStep s)
  | request : StepKind s (cipherRequest s)
  | answer : StepKind s (cipherAnswer s)

/-- R164: a command issue is refused, and changes ERR and its code alone, or it is what becomes of a command. -/
theorem stepKind_of_issueWith {run : Instr → State → Host.Outcome State Fault Refusal} {w : Word} {s t : State}
    (hrun : ∀ i, s.busy = false → run i s = .next t → StepKind s t) (h : issueWith run w s = .next t) :
    StepKind s t := by
  obtain ⟨-, rfl⟩ | ⟨hidle, i, -, haccepted⟩ | ⟨-, d, -, rfl⟩ := issueWith_cases h
  · exact .undisturbed (undisturbed_raiseErr _ s)
  · exact hrun i hidle haccepted
  · exact .undisturbed (undisturbed_raiseErr _ s)

theorem stepKind_of_exec {i : Instr} {s t : State} (hb : s.busy = false) (h : exec i s = .next t) :
    StepKind s t := by
  rw [exec_of_idle hb] at h
  cases h
  exact .completed i hb

theorem stepKind_writeOwned (v : Word) (reg : Reg) (s : State) : StepKind s (writeOwned v reg s) := by
  cases hb : s.busy with
  | true =>
    rw [writeOwned_of_busy hb]
    exact .undisturbed (undisturbed_raiseErr _ s)
  | false =>
    rw [writeOwned_of_idle hb]
    exact .store v reg hb

theorem stepKind_writeCtrl (v : Word) (s : State) : StepKind s (writeCtrl v s) := by
  cases hv : v[1] with
  | true =>
    rw [writeCtrl_of_reset hv]
    exact .reset
  | false => exact .undisturbed (undisturbed_writeCtrl s hv)

theorem stepKind_of_regWrite {n : RegNum} {v : Word} {s t : State} (h : regWrite n v s = .next t) :
    StepKind s t := by
  obtain ⟨-, rfl⟩ | ⟨-, rfl⟩ | ⟨-, hissue⟩ | ⟨-, rfl⟩ | ⟨-, -, rfl⟩ := regWrite_cases h
  · exact stepKind_writeCtrl v s
  · exact .undisturbed (undisturbed_writeStatus v s)
  · refine stepKind_of_issueWith (fun i hb haccepted => ?_) hissue
    cases haccepted
    exact .accepted i hb
  · exact .undisturbed (undisturbed_raiseErr _ s)
  · exact stepKind_writeOwned v _ s

theorem stepKind_of_handle {ev : Event} {s t : State} (h : handle exec s ev = .next t) : StepKind s t := by
  cases ev with
  | write n v => exact stepKind_of_regWrite h
  | command w => exact stepKind_of_issueWith (fun _ => stepKind_of_exec) h
  | rst =>
    cases h
    exact .reset
  | read n =>
    cases h
    exact .undisturbed (undisturbed_regRead n s)
  | engine =>
    cases h
    exact .engine
  | cipherRequest =>
    cases h
    exact .request
  | cipherAnswer =>
    cases h
    exact .answer

theorem stepKind_ownTurn (s : State) : StepKind s (ownTurn s) := by
  cases ho : s.outstanding with
  | none => simpa [ownTurn, ho] using StepKind.engine
  | some b => simpa [ownTurn, ho] using StepKind.answer

/-- R50: a step takes the next event off, if there is one, and does one of the eight things. -/
theorem stepKind_of_step {s t : State} (h : step s = .next t) : StepKind { s with inputs := s.inputs.tail } t := by
  obtain ⟨hnil, rfl⟩ | ⟨ev, rest, hcons, hhandle⟩ := step_cases h
  · have htail : s.inputs.tail = s.inputs := by rw [hnil, List.tail_nil]
    rw [htail]
    exact stepKind_ownTurn s
  · rw [hcons]
    exact stepKind_of_handle hhandle

/-! ### The invariant of an idle block -/

theorem State.Inv.of_idle {s : State} (hb : s.busy = false) (hseq : s.seq = .idle) (ho : s.outstanding = none)
    (herr : errOk s) : s.Inv where
  status := by simp [statusOk, hb, hseq]
  err := herr
  seq := by simp [seqOk, hseq]
  request := by simp [requestOk, ho]

/-- R28: a block that is not BUSY is IDLE. -/
theorem State.Inv.seq_of_idle {s : State} (h : s.Inv) (hb : s.busy = false) : s.seq = .idle := by
  obtain ⟨hiff, -⟩ := h.status
  simpa [hb] using hiff

theorem State.Inv.busy_of_run {s : State} (h : s.Inv) {cmd : Instr} {ph : Phase} (hrun : s.seq = .run cmd ph) :
    s.busy = true := by
  obtain ⟨hiff, -⟩ := h.status
  simp [hiff, hrun]

/-- R31: outside stage FK no request is in flight. -/
theorem State.Inv.outstanding_of_not_fk {s : State} (h : s.Inv)
    (hstage : ∀ cmd ph, s.seq = .run cmd ph → ph.stage ≠ .fk) : s.outstanding = none := by
  rw [Option.eq_none_iff_forall_ne_some]
  intro b hb
  obtain ⟨cmd, ph, hrun, hfk, -⟩ := h.request b hb
  exact hstage cmd ph hrun hfk

theorem State.Inv.outstanding_of_idle {s : State} (h : s.Inv) (hb : s.busy = false) : s.outstanding = none :=
  h.outstanding_of_not_fk fun cmd ph hrun => by simp [h.seq_of_idle hb] at hrun

theorem State.Inv.outstanding_of_stage {s : State} (h : s.Inv) {cmd : Instr} {ph : Phase}
    (hrun : s.seq = .run cmd ph) (hstage : ph.stage ≠ .fk) : s.outstanding = none :=
  h.outstanding_of_not_fk fun cmd' ph' hrun' => by
    cases hrun.symm.trans hrun'
    exact hstage

/-! ### The host's moves keep the invariant -/

theorem inv_resetBlock (s : State) : (resetBlock s).Inv :=
  .of_idle rfl rfl rfl ⟨fun _ => rfl, nofun⟩

theorem fkPlaintext_congr {s t : State} (j : BitVec 5) (hch : t.ch = s.ch) (hhidden : t.hidden = s.hidden) :
    fkPlaintext j t = fkPlaintext j s := by
  simp only [fkPlaintext, hch, hhidden]

theorem State.Inv.undisturbed {s t : State} (h : s.Inv) (hu : Undisturbed s t) : t.Inv where
  status := by
    obtain ⟨hiff, hflags⟩ := h.status
    refine ⟨by rw [hu.busy, hu.seq]; exact hiff, fun hbusy => ?_⟩
    obtain ⟨hdone, hok⟩ := hflags (hu.busy ▸ hbusy)
    exact ⟨Bool.eq_false_iff.mpr fun ht => by simp [hu.done ht] at hdone, hu.ok.trans hok⟩
  err := hu.err h.err
  seq := by
    have hseq := h.seq
    rw [seqOk] at hseq ⊢
    rwa [hu.seq, hu.data.rounds]
  request := by
    intro b hb
    rw [hu.outstanding] at hb
    obtain ⟨cmd, ph, hrun, hfk, hplain⟩ := h.request b hb
    exact ⟨cmd, ph, hu.seq.trans hrun, hfk, hplain.trans (fkPlaintext_congr _ hu.data.ch hu.hidden).symm⟩

/-- R33: a plain store changes a data register and the record of what is written. -/
theorem inv_storeReg {s : State} (h : s.Inv) (hb : s.busy = false) (v : Word) (reg : Reg) :
    (storeReg v s reg).Inv := by
  have hseq := h.seq_of_idle hb
  have ho := h.outstanding_of_idle hb
  cases reg <;> exact .of_idle hb hseq ho h.err

theorem countersOk_firstPhase (i : Instr) (rounds : BitVec 32) : countersOk (firstPhase i rounds) := by
  cases i <;> simp [countersOk, firstPhase, firstStage]

theorem stageFits_firstStage (i : Instr) : stageFits i (firstStage i) = true := by
  cases i <;> rfl

theorem inv_accept {s : State} (h : s.Inv) (hb : s.busy = false) (i : Instr) : (accept i s).Inv where
  status := by simp [statusOk]
  err := h.err
  seq := ⟨stageFits_firstStage i, rfl, countersOk_firstPhase i s.rounds⟩
  request := by simp [requestOk, h.outstanding_of_idle hb]

/-- R139: a block that completes is IDLE, so no request may be in flight. -/
theorem inv_complete {s : State} (i : Instr) (herr : errOk s) (ho : s.outstanding = none) : (complete i s).Inv :=
  .of_idle rfl rfl ho herr

theorem inv_of_completed {s t : State} (h : s.Inv) (hb : s.busy = false) (hc : Completed s t) : t.Inv :=
  .of_idle hc.busy hc.seq (hc.outstanding.trans (h.outstanding_of_idle hb))
    (by rw [errOk, hc.err, hc.errcode]; exact h.err)

/-! ### The engine's moves keep the invariant -/

/-- The status of a running command, which every row of R139 but a completing one keeps. -/
structure SameStatus (s t : State) : Prop where
  busy : t.busy = s.busy
  done : t.done = s.done
  ok : t.ok = s.ok
  err : t.err = s.err
  errcode : t.errcode = s.errcode
  rounds : t.rounds = s.rounds
  outstanding : t.outstanding = s.outstanding

/-- A row of R139 that goes on with the command keeps the invariant if its next phase is one of the command's, with
the counters in place. -/
theorem State.Inv.of_row {s t : State} (h : s.Inv) {cmd : Instr} {ph ph' : Phase} (hrun : s.seq = .run cmd ph)
    (ho : s.outstanding = none) (hstatus : SameStatus s t) (hrun' : t.seq = .run cmd ph') (hn : ph'.n = ph.n)
    (hfits : stageFits cmd ph'.stage = true) (hcounters : countersOk ph') : t.Inv where
  status := by
    obtain ⟨-, hflags⟩ := h.status
    have hbusy := h.busy_of_run hrun
    obtain ⟨hdone, hok⟩ := hflags hbusy
    simp [statusOk, hstatus.busy, hbusy, hrun', hstatus.done, hdone, hstatus.ok, hok]
  err := by
    rw [errOk, hstatus.err, hstatus.errcode]
    exact h.err
  seq := by
    have hseq := h.seq
    simp only [seqOk, hrun] at hseq
    obtain ⟨-, hrounds, -⟩ := hseq
    simp only [seqOk, hrun', hstatus.rounds]
    exact ⟨hfits, hn.trans hrounds, hcounters⟩
  request := by simp [requestOk, hstatus.outstanding, ho]

/-- What the invariant says of a running command's phase. -/
theorem State.Inv.phase {s : State} (h : s.Inv) {cmd : Instr} {ph : Phase} (hrun : s.seq = .run cmd ph) :
    stageFits cmd ph.stage = true ∧ ph.n = s.rounds ∧ countersOk ph := by
  have hseq := h.seq
  simpa only [seqOk, hrun] using hseq

section Rows

variable {s : State} {cmd : Instr} {ph : Phase}

/-! The commands that pass through a stage, and where they go from there. -/

theorem stageFits_fin_of_ar (h : stageFits cmd .ar = true) : stageFits cmd .fin = true := by
  cases cmd <;> simp_all [stageFits]

theorem stageFits_afterFk (h : stageFits cmd .fk = true) : stageFits cmd (afterFk cmd) = true := by
  cases cmd <;> simp_all [stageFits, afterFk]

theorem eq_delay_or_verify_of_sp (h : stageFits cmd .sp = true) : cmd = .delay ∨ cmd = .verify := by
  cases cmd <;> simp_all [stageFits]

theorem eq_delay_of_sd (h : stageFits cmd .sd = true) : cmd = .delay := by
  cases cmd <;> simp_all [stageFits]

theorem eq_delay_of_rb (h : stageFits cmd .rb = true) : cmd = .delay := by
  cases cmd <;> simp_all [stageFits]

theorem eq_verify_of_rf (h : stageFits cmd .rf = true) : cmd = .verify := by
  cases cmd <;> simp_all [stageFits]

/-! The counters of the stages in which they move (R28, R135, R136). -/

theorem countersOk_fk_iff (h : ph.stage = .fk) : countersOk ph ↔ ph.j.toNat < 17 := by
  simp [countersOk, h]

theorem countersOk_sp_iff (h : ph.stage = .sp) : countersOk ph ↔ ph.j = 17#5 := by
  simp [countersOk, h]

theorem countersOk_rb_iff (h : ph.stage = .rb) :
    countersOk ph ↔ ph.r.toNat ≤ ph.n.toNat ∧ ph.kn = (ph.n - 1#32 - ph.r).setWidth 5 := by
  simp [countersOk, h]

theorem countersOk_rf_iff (h : ph.stage = .rf) :
    countersOk ph ↔ ph.r.toNat ≤ ph.n.toNat ∧ ph.kn = ph.r.setWidth 5 := by
  simp [countersOk, h]

theorem toNat_succ_j (h : ph.j.toNat < 17) : (ph.j + 1#5).toNat = ph.j.toNat + 1 := by
  rw [BitVec.toNat_add, BitVec.toNat_one (by decide), Nat.mod_eq_of_lt (by omega)]

/-- A round not yet the last can be counted without passing `n`. -/
theorem toNat_succ_r (hle : ph.r.toNat ≤ ph.n.toNat) (hne : ph.r ≠ ph.n) :
    (ph.r + 1#32).toNat = ph.r.toNat + 1 ∧ ph.r.toNat < ph.n.toNat := by
  have hlt : ph.r.toNat < ph.n.toNat := lt_of_le_of_ne hle fun h => hne (BitVec.eq_of_toNat_eq h)
  have hn := ph.n.isLt
  rw [BitVec.toNat_add, BitVec.toNat_one (by decide), Nat.mod_eq_of_lt (by omega)]
  exact ⟨rfl, hlt⟩

/-- R135: the key index counts down with the rounds. -/
theorem setWidth_sub_succ (a r : BitVec 32) : (a - r).setWidth 5 - 1#5 = (a - (r + 1#32)).setWidth 5 := by
  bv_omega

/-- R136: the key index counts up with the rounds. -/
theorem setWidth_succ (r : BitVec 32) : r.setWidth 5 + 1#5 = (r + 1#32).setWidth 5 := by
  rw [BitVec.setWidth_add _ _ (by decide)]
  rfl

theorem countersOk_rb_succ (hstage : ph.stage = .rb) (h : countersOk ph) (hne : ph.r ≠ ph.n) :
    countersOk { ph with r := ph.r + 1#32, kn := ph.kn - 1#5 } := by
  obtain ⟨hle, hkn⟩ := (countersOk_rb_iff hstage).mp h
  obtain ⟨hsucc, hlt⟩ := toNat_succ_r hle hne
  have hkn' := (congrArg (· - 1#5) hkn).trans (setWidth_sub_succ _ _)
  exact (countersOk_rb_iff (ph := { ph with r := ph.r + 1#32, kn := ph.kn - 1#5 }) hstage).mpr
    ⟨hsucc.trans_le hlt, hkn'⟩

theorem countersOk_rf_succ (hstage : ph.stage = .rf) (h : countersOk ph) (hne : ph.r ≠ ph.n) :
    countersOk { ph with r := ph.r + 1#32, kn := ph.kn + 1#5 } := by
  obtain ⟨hle, hkn⟩ := (countersOk_rf_iff hstage).mp h
  obtain ⟨hsucc, hlt⟩ := toNat_succ_r hle hne
  have hkn' := (congrArg (· + 1#5) hkn).trans (setWidth_succ _)
  exact (countersOk_rf_iff (ph := { ph with r := ph.r + 1#32, kn := ph.kn + 1#5 }) hstage).mpr
    ⟨hsucc.trans_le hlt, hkn'⟩

/-- Where the FK row of index `j` goes (R139): on in FK, or after the last block out of it, with `j = 17`. -/
theorem countersOk_fkAbsorb (hj : ph.j.toNat < 17) (hfits : stageFits cmd .fk = true) :
    let ph' : Phase :=
      { ph with j := ph.j + 1#5, stage := if (ph.j + 1#5).toNat < 17 then .fk else afterFk cmd }
    stageFits cmd ph'.stage = true ∧ countersOk ph' := by
  intro ph'
  have hsucc := toNat_succ_j hj
  by_cases hlt : (ph.j + 1#5).toNat < 17
  · have hstage : ph'.stage = .fk := if_pos hlt
    rw [hstage, countersOk_fk_iff hstage]
    exact ⟨hfits, hlt⟩
  · have hstage : ph'.stage = afterFk cmd := if_neg hlt
    refine ⟨hstage ▸ stageFits_afterFk hfits, ?_⟩
    have hlast : ph'.j = 17#5 := BitVec.eq_of_toNat_eq (by change (ph.j + 1#5).toNat = 17; omega)
    cases cmd <;> simp [countersOk, hstage, afterFk, hlast]

/-! One lemma for each row of R139. -/

theorem sameStatus_arStep : SameStatus s (arStep cmd ph s) := by
  cases cmd <;> constructor <;> rfl

theorem inv_arStep (h : s.Inv) (hrun : s.seq = .run cmd ph) (hstage : ph.stage = .ar) : (arStep cmd ph s).Inv := by
  obtain ⟨hfits, -, -⟩ := h.phase hrun
  rw [hstage] at hfits
  have ho := h.outstanding_of_stage hrun (by simp [hstage])
  exact h.of_row hrun ho sameStatus_arStep rfl rfl (stageFits_fin_of_ar hfits) trivial

theorem inv_fkAbsorb (h : s.Inv) (hrun : s.seq = .run cmd ph) (hstage : ph.stage = .fk) (ho : s.outstanding = none)
    (y : Block) : (fkAbsorb y cmd ph s).Inv := by
  obtain ⟨hfits, -, hcounters⟩ := h.phase hrun
  rw [hstage] at hfits
  rw [countersOk_fk_iff hstage] at hcounters
  obtain ⟨hfits', hcounters'⟩ := countersOk_fkAbsorb hcounters hfits
  exact h.of_row hrun ho (by constructor <;> rfl) rfl rfl hfits' hcounters'

theorem inv_spStep (h : s.Inv) (hrun : s.seq = .run cmd ph) (hstage : ph.stage = .sp) : (spStep cmd ph s).Inv := by
  obtain ⟨hfits, -, hcounters⟩ := h.phase hrun
  rw [hstage] at hfits
  rw [countersOk_sp_iff hstage] at hcounters
  have ho := h.outstanding_of_stage hrun (by simp [hstage])
  obtain rfl | rfl := eq_delay_or_verify_of_sp hfits
  · exact h.of_row hrun ho (by constructor <;> rfl) rfl rfl rfl hcounters
  · exact h.of_row hrun ho (by constructor <;> rfl) rfl rfl rfl ⟨Nat.zero_le _, rfl⟩

theorem inv_sdStep (h : s.Inv) (hrun : s.seq = .run cmd ph) (hstage : ph.stage = .sd) : (sdStep cmd ph s).Inv := by
  obtain ⟨hfits, -, -⟩ := h.phase hrun
  rw [hstage] at hfits
  obtain rfl := eq_delay_of_sd hfits
  have ho := h.outstanding_of_stage hrun (by simp [hstage])
  exact h.of_row hrun ho (by constructor <;> rfl) rfl rfl rfl ⟨Nat.zero_le _, by simp⟩

theorem inv_rbStep (h : s.Inv) (hrun : s.seq = .run cmd ph) (hstage : ph.stage = .rb) : (rbStep cmd ph s).Inv := by
  obtain ⟨hfits, -, hcounters⟩ := h.phase hrun
  rw [hstage] at hfits
  obtain rfl := eq_delay_of_rb hfits
  have ho := h.outstanding_of_stage hrun (by simp [hstage])
  by_cases hr : ph.r = ph.n
  · rw [rbStep_of_done hr]
    exact h.of_row hrun ho (by constructor <;> rfl) rfl rfl rfl trivial
  · rw [rbStep_of_round hr]
    exact h.of_row hrun ho (by constructor <;> rfl) rfl rfl (hstage ▸ rfl) (countersOk_rb_succ hstage hcounters hr)

theorem inv_rfStep (h : s.Inv) (hrun : s.seq = .run cmd ph) (hstage : ph.stage = .rf) : (rfStep cmd ph s).Inv := by
  obtain ⟨hfits, -, hcounters⟩ := h.phase hrun
  rw [hstage] at hfits
  obtain rfl := eq_verify_of_rf hfits
  have ho := h.outstanding_of_stage hrun (by simp [hstage])
  by_cases hr : ph.r = ph.n
  · rw [rfStep_of_done hr]
    exact h.of_row hrun ho (by constructor <;> rfl) rfl rfl rfl trivial
  · rw [rfStep_of_round hr]
    exact h.of_row hrun ho (by constructor <;> rfl) rfl rfl (hstage ▸ rfl) (countersOk_rf_succ hstage hcounters hr)

end Rows

theorem phaseStep_ck {cmd : Instr} {ph : Phase} {s : State} (h : ph.stage = .ck) :
    phaseStep cmd ph s = complete cmd (checkEffect s) := by
  simp [phaseStep, h]

theorem inv_phaseStep {s : State} {cmd : Instr} {ph : Phase} (h : s.Inv) (hrun : s.seq = .run cmd ph) :
    (phaseStep cmd ph s).Inv := by
  cases hstage : ph.stage with
  | ar => simpa [phaseStep, hstage] using inv_arStep h hrun hstage
  | fk =>
    cases ho : s.outstanding with
    | none =>
      rw [phaseStep_fk hstage ho]
      exact inv_fkAbsorb h hrun hstage ho _
    | some b => rwa [phaseStep_fk_waiting hstage ho]
  | sp => simpa [phaseStep, hstage] using inv_spStep h hrun hstage
  | sd => simpa [phaseStep, hstage] using inv_sdStep h hrun hstage
  | rb => simpa [phaseStep, hstage] using inv_rbStep h hrun hstage
  | rf => simpa [phaseStep, hstage] using inv_rfStep h hrun hstage
  | ck =>
    rw [phaseStep_ck hstage]
    exact inv_complete (s := checkEffect s) cmd h.err (h.outstanding_of_stage hrun (by simp [hstage]))
  | fin =>
    rw [phaseStep_fin hstage]
    exact inv_complete cmd h.err (h.outstanding_of_stage hrun (by simp [hstage]))

theorem inv_engineStep {s : State} (h : s.Inv) : (engineStep s).Inv := by
  cases hseq : s.seq with
  | idle => rwa [engineStep_of_idle hseq]
  | run cmd ph =>
    rw [engineStep_of_run hseq]
    exact inv_phaseStep h hseq

/-! ### The cipher port's moves keep the invariant (R31, R48) -/

/-- R48 item 1: a request is presented in stage FK, at most one at a time; at any other time nothing happens. -/
theorem cipherRequest_cases (s : State) :
    (∃ cmd ph, s.seq = .run cmd ph ∧ ph.stage = .fk ∧ s.outstanding = none
        ∧ cipherRequest s = { s with outstanding := some (fkPlaintext ph.j s) })
      ∨ cipherRequest s = s := by
  unfold cipherRequest
  split
  next cmd ph hseq ho =>
    split
    next hstage => exact .inl ⟨cmd, ph, hseq, hstage, ho, rfl⟩
    next => exact .inr rfl
  next => exact .inr rfl
  next => exact .inr rfl

/-- R48 items 2 and 3: an answer is absorbed in stage FK; the request is over in any case. -/
theorem cipherAnswer_cases (s : State) :
    (∃ cmd ph b, s.seq = .run cmd ph ∧ ph.stage = .fk ∧ s.outstanding = some b
        ∧ cipherAnswer s = fkAbsorb (Config.enc b) cmd ph { s with outstanding := none })
      ∨ cipherAnswer s = { s with outstanding := none } := by
  unfold cipherAnswer
  split
  next ho => exact .inr (by rw [← ho])
  next b ho =>
    split
    next => exact .inr rfl
    next cmd ph hseq =>
      split
      next hstage => exact .inl ⟨cmd, ph, b, hseq, hstage, ho, rfl⟩
      next => exact .inr rfl

theorem State.Inv.forget_request {s : State} (h : s.Inv) : ({ s with outstanding := none } : State).Inv where
  status := h.status
  err := h.err
  seq := h.seq
  request := nofun

theorem inv_cipherRequest {s : State} (h : s.Inv) : (cipherRequest s).Inv := by
  obtain ⟨cmd, ph, hrun, hstage, -, heq⟩ | heq := cipherRequest_cases s <;> rw [heq]
  · refine ⟨h.status, h.err, h.seq, fun b hb => ?_⟩
    cases hb
    exact ⟨cmd, ph, hrun, hstage, rfl⟩
  · exact h

theorem inv_cipherAnswer {s : State} (h : s.Inv) : (cipherAnswer s).Inv := by
  obtain ⟨cmd, ph, b, hrun, hstage, -, heq⟩ | heq := cipherAnswer_cases s <;> rw [heq]
  · exact inv_fkAbsorb h.forget_request hrun hstage rfl _
  · exact h.forget_request

theorem inv_of_stepKind {s t : State} (h : s.Inv) (hkind : StepKind s t) : t.Inv := by
  cases hkind with
  | reset => exact inv_resetBlock s
  | undisturbed hu => exact h.undisturbed hu
  | store v reg hb => exact inv_storeReg h hb v reg
  | accepted i hb => exact inv_accept h hb i
  | completed i hb => exact inv_of_completed h hb (completed_complete_effectOf i s)
  | engine => exact inv_engineStep h
  | request => exact inv_cipherRequest h
  | answer => exact inv_cipherAnswer h

/-- The invariant does not speak of the events to come. -/
theorem State.Inv.with_inputs {s : State} (h : s.Inv) (inputs : List Event) :
    ({ s with inputs := inputs } : State).Inv :=
  ⟨h.status, h.err, h.seq, h.request⟩

/-! ### A running command is left alone by the host (R51) -/

theorem eq_ctrl_of_regOf : ∀ n : RegNum, regOf n = .ctrl → n = 0x01#7 := by decide

theorem undisturbed_of_issueWith {run : Instr → State → Host.Outcome State Fault Refusal} {w : Word} {s t : State}
    (hb : s.busy = true) (h : issueWith run w s = .next t) : Undisturbed s t := by
  rw [issueWith_of_busy hb] at h
  cases h
  exact undisturbed_raiseErr _ s

theorem undisturbed_of_regWrite {n : RegNum} {v : Word} {s t : State} (hb : s.busy = true)
    (hkeep : (Event.write n v).keepsCommand = true) (h : regWrite n v s = .next t) : Undisturbed s t := by
  obtain ⟨hctrl, rfl⟩ | ⟨-, rfl⟩ | ⟨-, hissue⟩ | ⟨-, rfl⟩ | ⟨-, -, rfl⟩ := regWrite_cases h
  · have hv : v[1] = false := by simpa [Event.keepsCommand, eq_ctrl_of_regOf n hctrl] using hkeep
    exact undisturbed_writeCtrl s hv
  · exact undisturbed_writeStatus v s
  · exact undisturbed_of_issueWith hb hissue
  · exact undisturbed_raiseErr _ s
  · rw [writeOwned_of_busy hb]
    exact undisturbed_raiseErr _ s

theorem undisturbed_of_handle {ev : Event} {s t : State} (hb : s.busy = true) (hkeep : ev.keepsCommand = true)
    (h : handle exec s ev = .next t) : Undisturbed s t := by
  cases ev with
  | read n =>
    cases h
    exact undisturbed_regRead n s
  | write n v => exact undisturbed_of_regWrite hb hkeep h
  | command w => exact undisturbed_of_issueWith hb h
  | rst | engine | cipherRequest | cipherAnswer => cases hkeep

/-! ### Every step answers (R170) -/

theorem issueWith_answers {run : Instr → State → Host.Outcome State Fault Refusal} {s : State} (w : Word)
    (hrun : ∀ i, ∃ t, run i s = .next t) : ∃ t, issueWith run w s = .next t := by
  cases hb : s.busy with
  | true => exact ⟨_, issueWith_of_busy hb⟩
  | false =>
    cases hd : decode w with
    | ok i =>
      rw [issueWith_of_decoded hb hd]
      exact hrun i
    | error d => exact ⟨_, issueWith_of_malformed hb hd⟩

theorem exec_answers (i : Instr) (s : State) : ∃ t, exec i s = .next t := by
  rw [exec_eq_runCommand]
  cases hb : s.busy with
  | true => exact ⟨_, runCommand_of_busy hb⟩
  | false => exact ⟨_, runCommand_of_idle hb⟩

theorem regWrite_answers (n : RegNum) (v : Word) (s : State) : ∃ t, regWrite n v s = .next t := by
  unfold regWrite
  split
  case h_3 => exact issueWith_answers v fun i => ⟨accept i s, rfl⟩
  all_goals exact ⟨_, rfl⟩

theorem step_answers (s : State) : ∃ t, step s = .next t := by
  cases hin : s.inputs with
  | nil => exact ⟨_, step_of_nil hin⟩
  | cons ev rest =>
    rw [step_of_cons hin]
    cases ev with
    | write n v => exact regWrite_answers n v _
    | command w => exact issueWith_answers w fun i => exec_answers i _
    | rst | read | engine | cipherRequest | cipherAnswer => exact ⟨_, rfl⟩

/-! ### The statements -/

/-- Settles O41: the block after reset is idle with no error and no request. -/
theorem resetMeetsTheInvariant : Obligations.ResetMeetsTheInvariant :=
  .of_idle rfl rfl rfl ⟨fun _ => rfl, nofun⟩

/-- Settles O42: the invariant does not speak of the events to come, and each of the eight things a step can do keeps
it. -/
theorem everyStepKeepsTheInvariant : Obligations.EveryStepKeepsTheInvariant :=
  fun _ _ h hstep => inv_of_stepKind (h.with_inputs _) (stepKind_of_step hstep)

/-- Settles O9: `step_answers`. -/
theorem everyStepAnswersNext : Obligations.EveryStepAnswersNext := step_answers

/-- Settles O17: while BUSY every host transfer but a reset is refused or touches none of what the statement
names. -/
theorem hostCannotDisturbRunningCommand : Obligations.HostCannotDisturbRunningCommand := by
  intro s ev rest hb hin hkeep
  obtain ⟨t, hstep⟩ := step_answers s
  have hu : Undisturbed { s with inputs := rest } t :=
    undisturbed_of_handle hb hkeep ((step_of_cons hin).symm.trans hstep)
  have hdata : SameData s t := ⟨hu.data.rounds, hu.data.a, hu.data.b, hu.data.e, hu.data.plo, hu.data.x, hu.data.r,
    hu.data.ch, hu.data.k⟩
  exact ⟨t, hstep, hdata, hu.busy.trans hb, hu.seq, hu.hidden, hu.outstanding, hu.ok, hu.written⟩

end Sys2Proof.Machine

/-! PROOFS of the statements on the key controller and on a running DELAY (family `other`): one FK step takes the
schedule one block further, and each row of R139 keeps what the registers of a DELAY hold. -/

namespace Sys2Proof.Machine

/-! ### The key controller, one block at a time (R111, R119) -/

theorem scheduleUpTo_zero (s : State) : scheduleUpTo 0 s :=
  ⟨fun _ h => absurd h (Nat.not_lt_zero _), nofun⟩

theorem k_of_scheduleUpTo {s : State} (h : scheduleUpTo 17 s) : s.k = schedule Config.enc s.ch := by
  obtain ⟨hwords, -⟩ := h
  apply Vector.ext
  intro i hi
  rw [getElem_schedule]
  exact hwords ⟨i, hi⟩ hi

/-- R44: a block is its two words, put together. -/
theorem highWord_append_lowWord (b : Block) : highWord b ++ lowWord b = b :=
  BitVec.extractLsb'_append_extractLsb' (w := 64) (len := 64)

/-- R111, R119: at index `j` the chaining block becomes block `B[j]` of the schedule. At `j = 1` the fold is with
block 0, read back from K. -/
theorem fkChain_eq_keyBlock {s : State} {j : BitVec 5} (h : scheduleUpTo j.toNat s) :
    fkChain j (Config.enc (fkPlaintext j s)) s = keyBlock Config.enc s.ch j.toNat := by
  obtain ⟨hwords, hchain⟩ := h
  by_cases h0 : j = 0#5
  · subst h0
    rfl
  by_cases h1 : j = 1#5
  · subst h1
    have hlow : s.k[0] = lowWord (keyBlock Config.enc s.ch 0) := hwords 0 (by decide)
    have hhigh : s.k[1] = highWord (keyBlock Config.enc s.ch 0) := hwords 1 (by decide)
    have hblock : s.k[1] ++ s.k[0] = keyBlock Config.enc s.ch 0 := by rw [hlow, hhigh, highWord_append_lowWord]
    calc fkChain 1#5 (Config.enc (fkPlaintext 1#5 s)) s
        = Config.enc (in1 s.ch) ^^^ (s.k[1] ++ s.k[0]) := rfl
      _ = keyBlock Config.enc s.ch 1 := by rw [hblock]; rfl
  · have hj : 2 ≤ j.toNat := by bv_omega
    rw [keyBlock_of_two_le _ _ hj, ← hchain (by omega)]
    simp [fkChain, fkPlaintext, h0, h1]

theorem getElem_storePair (j : BitVec 5) (cb : Block) (k : Keys) {i : Nat} (hi : i < 34) :
    (storePair j cb k)[i] =
      if i = 2 * j.toNat + 1 then highWord cb else if i = 2 * j.toNat then lowWord cb else k[i] := by
  simp only [storePair, Vector.getElem_setIfInBounds, eq_comm]

theorem scheduleUpTo_fkAbsorb {s : State} {cmd : Instr} {ph : Phase} (h : scheduleUpTo ph.j.toNat s) :
    scheduleUpTo (ph.j.toNat + 1) (fkAbsorb (Config.enc (fkPlaintext ph.j s)) cmd ph s) := by
  have hblock := fkChain_eq_keyBlock h
  obtain ⟨hwords, -⟩ := h
  refine ⟨fun i hi => ?word, fun _ => hblock⟩
  have hstored := getElem_storePair ph.j (fkChain ph.j (Config.enc (fkPlaintext ph.j s)) s) s.k i.isLt
  refine hstored.trans ?_
  change _ = keyWord Config.enc s.ch i.val
  rw [hblock]
  split
  next hodd => rw [hodd, keyWord_two_mul_add_one]
  next hodd =>
    split
    next heven => rw [heven, keyWord_two_mul]
    next heven => exact hwords i (by omega)

/-! ### The key of a round (R135, R136) -/

/-- R135: the key index of backward round `r` is `n - 1 - r`, its low five bits. -/
theorem windowKey_of_back (k : Keys) {n r : BitVec 32} (h : r.toNat < n.toNat) :
    windowKey k ((n - 1#32 - r).setWidth 5) = roundKey k (n.toNat - 1 - r.toNat) := by
  have hindex : ((n - 1#32 - r).setWidth 5).toNat = (n.toNat - 1 - r.toNat) % 32 := by bv_omega
  simp only [windowKey, roundKey, hindex]

/-- R136: the key index of forward round `r` is `r`, its low five bits. -/
theorem windowKey_of_forw (k : Keys) (r : BitVec 32) : windowKey k (r.setWidth 5) = roundKey k r.toNat := by
  simp only [windowKey, roundKey, BitVec.toNat_setWidth, Nat.reducePow]

/-! ### What the progress statement says, stage by stage -/

section Stages

variable {s : State} {ph : Phase}

theorem delayProgress_of_not_delay (h : ∀ ph, s.seq ≠ .run .delay ph) : delayProgress s := by
  cases hseq : s.seq with
  | idle => simp [delayProgress, hseq]
  | run cmd ph =>
    have hne : cmd ≠ .delay := fun hc => h ph (hc ▸ hseq)
    simp [delayProgress, hseq, hne]

theorem delayProgress_of_idle (h : s.seq = .idle) : delayProgress s :=
  delayProgress_of_not_delay fun ph hrun => by simp [h] at hrun

theorem delayProgress_fk_iff (hrun : s.seq = .run .delay ph) (hstage : ph.stage = .fk) :
    delayProgress s ↔ scheduleUpTo ph.j.toNat s := by
  simp [delayProgress, hrun, hstage]

theorem delayProgress_sp_iff (hrun : s.seq = .run .delay ph) (hstage : ph.stage = .sp) :
    delayProgress s ↔ s.k = schedule Config.enc s.ch := by
  simp [delayProgress, hrun, hstage]

theorem delayProgress_sd_iff (hrun : s.seq = .run .delay ph) (hstage : ph.stage = .sd) :
    delayProgress s ↔ delayParams s := by
  simp [delayProgress, hrun, hstage]

theorem delayProgress_rb_iff (hrun : s.seq = .run .delay ph) (hstage : ph.stage = .rb) :
    delayProgress s ↔
      delayParams s ∧ s.x = backAfter s.k s.e s.p ph.n.toNat ph.r.toNat (seedOf s.k s.p) := by
  simp [delayProgress, hrun, hstage]

theorem delayProgress_fin_iff (hrun : s.seq = .run .delay ph) (hstage : ph.stage = .fin) :
    delayProgress s ↔ delayParams s ∧ s.x = delayFn Config.enc Config.primeTable s.ch s.rounds.toNat := by
  simp [delayProgress, hrun, hstage]

end Stages

/-! ### The engine's rows keep the progress of a DELAY (R139) -/

section Rows

variable {s : State} {ph : Phase}

theorem delayProgress_fkAbsorb (h : s.Inv) (hp : delayProgress s) (hrun : s.seq = .run .delay ph)
    (hstage : ph.stage = .fk) : delayProgress (fkAbsorb (Config.enc (fkPlaintext ph.j s)) .delay ph s) := by
  obtain ⟨-, -, hcounters⟩ := h.phase hrun
  have hj := (countersOk_fk_iff hstage).mp hcounters
  have hsucc := toNat_succ_j hj
  have hupTo := scheduleUpTo_fkAbsorb (cmd := .delay) ((delayProgress_fk_iff hrun hstage).mp hp)
  rw [← hsucc] at hupTo
  by_cases hlt : (ph.j + 1#5).toNat < 17
  · exact (delayProgress_fk_iff rfl (if_pos hlt)).mpr hupTo
  · rw [show (ph.j + 1#5).toNat = 17 by omega] at hupTo
    exact (delayProgress_sp_iff rfl (if_neg hlt)).mpr (k_of_scheduleUpTo hupTo)

theorem delayProgress_spStep (hp : delayProgress s) (hrun : s.seq = .run .delay ph) (hstage : ph.stage = .sp) :
    delayProgress (spStep .delay ph s) := by
  have hk := (delayProgress_sp_iff hrun hstage).mp hp
  exact (delayProgress_sd_iff rfl rfl).mpr ⟨hk, congrArg (fun k => Config.primeTable (primeIndex k)) hk, rfl⟩

theorem delayProgress_sdStep (hp : delayProgress s) (hrun : s.seq = .run .delay ph) (hstage : ph.stage = .sd) :
    delayProgress (sdStep .delay ph s) :=
  (delayProgress_rb_iff rfl rfl).mpr ⟨(delayProgress_sd_iff hrun hstage).mp hp, rfl⟩

/-- R137: with the parameters of its challenge, the walk's last running value is the proof. -/
theorem backAfter_eq_delayFn (h : delayParams s) (n : Nat) :
    backAfter s.k s.e s.p n n (seedOf s.k s.p) = delayFn Config.enc Config.primeTable s.ch n := by
  obtain ⟨hk, hplo, he⟩ := h
  have hp : s.p = selectedModulus Config.primeTable (schedule Config.enc s.ch) := by
    rw [State.p, hplo, selectedModulus]
  simp only [delayFn, he, hp, hk]

theorem delayProgress_rbStep (h : s.Inv) (hp : delayProgress s) (hrun : s.seq = .run .delay ph)
    (hstage : ph.stage = .rb) : delayProgress (rbStep .delay ph s) := by
  obtain ⟨-, hn, hcounters⟩ := h.phase hrun
  obtain ⟨hle, hkn⟩ := (countersOk_rb_iff hstage).mp hcounters
  obtain ⟨hparams, hx⟩ := (delayProgress_rb_iff hrun hstage).mp hp
  by_cases hr : ph.r = ph.n
  · rw [rbStep_of_done hr]
    refine (delayProgress_fin_iff rfl rfl).mpr ⟨hparams, ?_⟩
    rw [hr, hn, backAfter_eq_delayFn hparams] at hx
    exact hx
  · rw [rbStep_of_round hr]
    obtain ⟨hsucc, hlt⟩ := toNat_succ_r hle hr
    let ph' : Phase := { ph with r := ph.r + 1#32, kn := ph.kn - 1#5 }
    refine (delayProgress_rb_iff (ph := ph') rfl hstage).mpr ⟨hparams, ?_⟩
    calc bwd s.x (windowKey s.k ph.kn) s.e s.p
        = backAfter s.k s.e s.p ph.n.toNat (ph.r.toNat + 1) (seedOf s.k s.p) := by
          rw [backAfter_succ, ← hx, hkn, windowKey_of_back _ hlt]
      _ = backAfter s.k s.e s.p ph.n.toNat (ph.r + 1#32).toNat (seedOf s.k s.p) := by rw [hsucc]

theorem delayProgress_phaseStep (h : s.Inv) (hp : delayProgress s) (hrun : s.seq = .run .delay ph) :
    delayProgress (phaseStep .delay ph s) := by
  obtain ⟨hfits, -, -⟩ := h.phase hrun
  cases hstage : ph.stage with
  | fk =>
    cases ho : s.outstanding with
    | none =>
      rw [phaseStep_fk hstage ho]
      exact delayProgress_fkAbsorb h hp hrun hstage
    | some b => rwa [phaseStep_fk_waiting hstage ho]
  | sp => simpa [phaseStep, hstage] using delayProgress_spStep hp hrun hstage
  | sd => simpa [phaseStep, hstage] using delayProgress_sdStep hp hrun hstage
  | rb => simpa [phaseStep, hstage] using delayProgress_rbStep h hp hrun hstage
  | fin =>
    rw [phaseStep_fin hstage]
    exact delayProgress_of_idle rfl
  | ar | rf | ck => simp [hstage, stageFits] at hfits

end Rows

/-- R139: a row goes on with the command it belongs to, or completes it. -/
theorem phaseStep_seq {s : State} {cmd : Instr} {ph : Phase} (hrun : s.seq = .run cmd ph) :
    (phaseStep cmd ph s).seq = .idle ∨ ∃ ph', (phaseStep cmd ph s).seq = .run cmd ph' := by
  cases hstage : ph.stage with
  | fk =>
    cases ho : s.outstanding with
    | none => exact .inr ⟨_, by rw [phaseStep_fk hstage ho]; rfl⟩
    | some b => exact .inr ⟨ph, by rw [phaseStep_fk_waiting hstage ho]; exact hrun⟩
  | fin => exact .inl (by rw [phaseStep_fin hstage]; rfl)
  | ck => exact .inl (by rw [phaseStep_ck hstage]; rfl)
  | ar => exact .inr ⟨_, by simp only [phaseStep, hstage]; rfl⟩
  | sd => exact .inr ⟨_, by simp only [phaseStep, hstage]; rfl⟩
  | sp =>
    simp only [phaseStep, hstage, spStep]
    split <;> exact .inr ⟨_, rfl⟩
  | rb =>
    simp only [phaseStep, hstage, rbStep]
    split <;> exact .inr ⟨_, rfl⟩
  | rf =>
    simp only [phaseStep, hstage, rfStep]
    split <;> exact .inr ⟨_, rfl⟩

theorem delayProgress_engineStep {s : State} (h : s.Inv) (hp : delayProgress s) : delayProgress (engineStep s) := by
  cases hseq : s.seq with
  | idle => rwa [engineStep_of_idle hseq]
  | run cmd ph =>
    rw [engineStep_of_run hseq]
    by_cases hc : cmd = .delay
    · subst hc
      exact delayProgress_phaseStep h hp hseq
    · refine delayProgress_of_not_delay fun ph' hrun => ?_
      obtain hidle | ⟨ph'', hgoes⟩ := phaseStep_seq hseq
      · simp [hidle] at hrun
      · rw [hgoes] at hrun
        cases hrun
        exact hc rfl

/-! ### The other moves keep it -/

theorem delayProgress_undisturbed {s t : State} (hp : delayProgress s) (hu : Undisturbed s t) : delayProgress t := by
  have hprime : t.p = s.p := congrArg modulus hu.data.plo
  simpa only [delayProgress, scheduleUpTo, delayParams, hu.seq, hu.hidden, hprime, hu.data.k, hu.data.ch, hu.data.plo,
    hu.data.e, hu.data.x, hu.data.rounds] using hp

theorem delayProgress_accept (i : Instr) (s : State) : delayProgress (accept i s) := by
  by_cases hi : i = .delay
  · subst hi
    exact (delayProgress_fk_iff (accept_seq .delay s) rfl).mpr (scheduleUpTo_zero _)
  · refine delayProgress_of_not_delay fun ph hrun => ?_
    cases hrun
    exact hi rfl

theorem storeReg_seq (v : Word) (s : State) (reg : Reg) : (storeReg v s reg).seq = s.seq := by
  cases reg <;> rfl

/-- R31: the request in flight carries the plaintext of its step, so its answer is absorbed as the engine's own. -/
theorem delayProgress_cipherAnswer {s : State} (h : s.Inv) (hp : delayProgress s) :
    delayProgress (cipherAnswer s) := by
  obtain ⟨cmd, ph, b, hrun, hstage, ho, heq⟩ | heq := cipherAnswer_cases s <;> rw [heq]
  · obtain ⟨cmd', ph', hrun', -, rfl⟩ := h.request b ho
    cases hrun.symm.trans hrun'
    by_cases hc : cmd = .delay
    · subst hc
      exact delayProgress_fkAbsorb h.forget_request hp hrun hstage
    · refine delayProgress_of_not_delay fun ph' hdelay => ?_
      cases hdelay
      exact hc rfl
  · exact hp

theorem delayProgress_cipherRequest {s : State} (hp : delayProgress s) : delayProgress (cipherRequest s) := by
  obtain ⟨_, _, -, -, -, heq⟩ | heq := cipherRequest_cases s <;> rw [heq] <;> exact hp

theorem delayProgress_of_stepKind {s t : State} (h : s.Inv) (hp : delayProgress s) (hkind : StepKind s t) :
    delayProgress t := by
  cases hkind with
  | reset => exact delayProgress_of_idle rfl
  | undisturbed hu => exact delayProgress_undisturbed hp hu
  | store v reg hb => exact delayProgress_of_idle ((storeReg_seq v s reg).trans (h.seq_of_idle hb))
  | accepted i => exact delayProgress_accept i s
  | completed i => exact delayProgress_of_idle rfl
  | engine => exact delayProgress_engineStep h hp
  | request => exact delayProgress_cipherRequest hp
  | answer => exact delayProgress_cipherAnswer h hp

/-! ### The statement -/

/-- Settles O43: the progress does not speak of the events to come, and each of the eight things a step can do keeps
it. -/
theorem everyStepKeepsDelayProgress : Obligations.EveryStepKeepsDelayProgress :=
  fun s _ h hp hstep => delayProgress_of_stepKind (h.with_inputs s.inputs.tail) hp (stepKind_of_step hstep)

end Sys2Proof.Machine

/-! PROOFS of the statements on the engine (family `other`): the cipher port and the completing step, the stages a
command passes through from its acceptance on, and that the engine's steps end where `exec` does. -/

namespace Sys2Proof.Machine

/-! ### The cipher port (R31, R48, R49) -/

theorem cipherRequest_of_fk {s : State} {cmd : Instr} {ph : Phase} (hrun : s.seq = .run cmd ph)
    (hstage : ph.stage = .fk) (ho : s.outstanding = none) :
    cipherRequest s = { s with outstanding := some (fkPlaintext ph.j s) } := by
  simp [cipherRequest, hrun, ho, hstage]

theorem cipherAnswer_of_fk {s : State} {cmd : Instr} {ph : Phase} {b : Block} (hrun : s.seq = .run cmd ph)
    (hstage : ph.stage = .fk) (ho : s.outstanding = some b) :
    cipherAnswer s = fkAbsorb (Config.enc b) cmd ph { s with outstanding := none } := by
  simp [cipherAnswer, hrun, ho, hstage]

/-- R31, R192: an answer that finds no request is discarded. -/
theorem cipherAnswer_of_none {s : State} (ho : s.outstanding = none) : cipherAnswer s = s := by
  simp [cipherAnswer, ho]

/-- R31: at most one request is in flight. -/
theorem cipherRequest_of_some {s : State} {b : Block} (ho : s.outstanding = some b) : cipherRequest s = s := by
  unfold cipherRequest
  split
  next hnone => simp [ho] at hnone
  next => rfl
  next => rfl

/-! ### A block in the middle of a command

The rows of R139 are followed on the data alone: `AtPhase u cmd ph t` says that `t` is `u` with `cmd` going on at
`ph`, whatever the hidden registers hold, so that each row becomes a change of `u` and of `ph`. -/

/-- The state is `u`, but for the hidden registers, and runs `cmd` at phase `ph`. -/
def AtPhase (u : State) (cmd : Instr) (ph : Phase) (t : State) : Prop :=
  ∃ h, t = { u with hidden := h, seq := .run cmd ph }

theorem atPhase_of_run {s : State} {cmd : Instr} {ph : Phase} (hrun : s.seq = .run cmd ph) : AtPhase s cmd ph s :=
  ⟨s.hidden, by rw [← hrun]⟩

section AtPhase

variable {u t : State} {cmd : Instr} {ph : Phase} {j kn : BitVec 5} {r n : BitVec 32}

theorem AtPhase.seq (h : AtPhase u cmd ph t) : t.seq = .run cmd ph := by
  obtain ⟨hidden, rfl⟩ := h
  rfl

theorem AtPhase.outstanding (h : AtPhase u cmd ph t) : t.outstanding = u.outstanding := by
  obtain ⟨hidden, rfl⟩ := h
  rfl

/-- In stage AR the engine does the command's Operation. -/
theorem AtPhase.ar (h : AtPhase u cmd ⟨.ar, j, r, n, kn⟩ t) (hfirst : firstStage cmd = .ar) :
    AtPhase (effectOf cmd u) cmd ⟨.fin, j, r, n, kn⟩ (engineStep t) := by
  obtain ⟨hidden, rfl⟩ := h
  cases cmd with
  | mulmod | modpow | cube | selp | ldp | calce | seed | rndb | rndf => exact ⟨_, rfl⟩
  | nop | fillk | check | delay | verify => cases hfirst

/-- R119: a block writes K and the chaining block alone. -/
theorem AtPhase.fk_block (h : AtPhase u cmd ⟨.fk, j, r, n, kn⟩ t) (ho : u.outstanding = none) :
    ∃ k, AtPhase { u with k := k } cmd
      ⟨if (j + 1#5).toNat < 17 then .fk else afterFk cmd, j + 1#5, r, n, kn⟩ (engineStep t) := by
  rw [engineStep_of_run h.seq, phaseStep_fk rfl (h.outstanding.trans ho)]
  obtain ⟨hidden, rfl⟩ := h
  exact ⟨_, _, rfl⟩

theorem AtPhase.sp_delay (h : AtPhase u .delay ⟨.sp, j, r, n, kn⟩ t) :
    AtPhase (loadPrime (primeIndex u.k) u) .delay ⟨.sd, j, r, n, kn⟩ (engineStep t) := by
  obtain ⟨hidden, rfl⟩ := h
  exact ⟨_, rfl⟩

theorem AtPhase.sp_verify (h : AtPhase u .verify ⟨.sp, j, r, n, kn⟩ t) :
    AtPhase { u with plo := Config.primeTable (primeIndex u.k) } .verify ⟨.rf, j, 0#32, n, 0#5⟩ (engineStep t) := by
  obtain ⟨hidden, rfl⟩ := h
  exact ⟨_, rfl⟩

theorem AtPhase.sd (h : AtPhase u cmd ⟨.sd, j, r, n, kn⟩ t) :
    AtPhase (seedEffect u) cmd ⟨.rb, j, 0#32, n, (n - 1#32).setWidth 5⟩ (engineStep t) := by
  obtain ⟨hidden, rfl⟩ := h
  exact ⟨_, rfl⟩

theorem AtPhase.rb_done (h : AtPhase u cmd ⟨.rb, j, n, n, kn⟩ t) :
    AtPhase u cmd ⟨.fin, j, n, n, kn⟩ (engineStep t) := by
  obtain ⟨hidden, rfl⟩ := h
  exact ⟨_, rbStep_of_done rfl⟩

theorem AtPhase.rb_round (h : AtPhase u cmd ⟨.rb, j, r, n, kn⟩ t) (hr : r ≠ n) :
    AtPhase { u with x := bwd u.x (windowKey u.k kn) u.e u.p } cmd ⟨.rb, j, r + 1#32, n, kn - 1#5⟩
      (engineStep t) := by
  obtain ⟨hidden, rfl⟩ := h
  exact ⟨_, rbStep_of_round hr⟩

theorem AtPhase.rf_done (h : AtPhase u cmd ⟨.rf, j, n, n, kn⟩ t) :
    AtPhase u cmd ⟨.ck, j, n, n, kn⟩ (engineStep t) := by
  obtain ⟨hidden, rfl⟩ := h
  exact ⟨_, rfStep_of_done rfl⟩

theorem AtPhase.rf_round (h : AtPhase u cmd ⟨.rf, j, r, n, kn⟩ t) (hr : r ≠ n) :
    AtPhase { u with x := fwd u.x (windowKey u.k kn) u.p } cmd ⟨.rf, j, r + 1#32, n, kn + 1#5⟩
      (engineStep t) := by
  obtain ⟨hidden, rfl⟩ := h
  exact ⟨_, rfStep_of_round hr⟩

/-- Completion forgets the phase and the hidden registers (R30). -/
theorem AtPhase.fin (h : AtPhase u cmd ⟨.fin, j, r, n, kn⟩ t) : engineStep t = complete cmd u := by
  obtain ⟨hidden, rfl⟩ := h
  rfl

theorem AtPhase.ck (h : AtPhase u cmd ⟨.ck, j, r, n, kn⟩ t) : engineStep t = complete cmd (checkEffect u) := by
  obtain ⟨hidden, rfl⟩ := h
  rfl

end AtPhase

theorem engineRun_succ_right (n : Nat) (s : State) : engineRun (n + 1) s = engineStep (engineRun n s) :=
  engineRun_add n 1 s

/-! ### The stages that repeat: FK, RB and RF -/

section Loops

variable {u t : State} {cmd : Instr} {j kn : BitVec 5} {n : BitVec 32}

/-- A block index of stage FK, counted on. -/
theorem ofNat_block {m : Nat} (hm : m < 17) :
    (BitVec.ofNat 5 m).toNat = m ∧ BitVec.ofNat 5 m + 1#5 = BitVec.ofNat 5 (m + 1)
      ∧ (BitVec.ofNat 5 (m + 1)).toNat = m + 1 := by
  refine ⟨?_, (BitVec.ofNat_add m 1).symm, ?_⟩ <;> rw [BitVec.toNat_ofNat, Nat.mod_eq_of_lt (by omega)]

/-- R119: `m` blocks from the start of FK write K and the chaining block alone; after the last the stage is left. -/
theorem AtPhase.fk_run (h : AtPhase u cmd ⟨.fk, 0#5, 0#32, n, 0#5⟩ t) (ho : u.outstanding = none) {m : Nat}
    (hm : m ≤ 17) :
    (∃ k, AtPhase { u with k := k } cmd ⟨if m < 17 then .fk else afterFk cmd, BitVec.ofNat 5 m, 0#32, n, 0#5⟩
        (engineRun m t))
      ∧ scheduleUpTo m (engineRun m t) := by
  induction m with
  | zero => exact ⟨⟨u.k, h⟩, scheduleUpTo_zero t⟩
  | succ m ih =>
    obtain ⟨⟨k, hat⟩, hupTo⟩ := ih (by omega)
    obtain ⟨hj, hsucc, hj'⟩ := ofNat_block hm
    rw [if_pos (Nat.lt_of_succ_le hm)] at hat
    rw [engineRun_succ_right]
    refine ⟨?frame, ?schedule⟩
    case frame =>
      obtain ⟨k', hat'⟩ := hat.fk_block ho
      rw [hsucc, hj'] at hat'
      exact ⟨k', hat'⟩
    case schedule =>
      have hupTo' : scheduleUpTo (BitVec.ofNat 5 m).toNat (engineRun m t) := by rwa [hj]
      have hnext := scheduleUpTo_fkAbsorb (cmd := cmd) (ph := ⟨.fk, BitVec.ofNat 5 m, 0#32, n, 0#5⟩) hupTo'
      rw [engineStep_of_run hat.seq, phaseStep_fk rfl (hat.outstanding.trans ho)]
      simpa only [hj] using hnext

/-- R119: seventeen blocks are the schedule. -/
theorem AtPhase.fk_all (h : AtPhase u cmd ⟨.fk, 0#5, 0#32, n, 0#5⟩ t) (ho : u.outstanding = none) :
    AtPhase { u with k := schedule Config.enc u.ch } cmd ⟨afterFk cmd, 17#5, 0#32, n, 0#5⟩ (engineRun 17 t) := by
  obtain ⟨⟨k, hidden, heq⟩, hupTo⟩ := h.fk_run ho le_rfl
  have hk := k_of_scheduleUpTo hupTo
  rw [heq] at hk
  exact ⟨hidden, hk ▸ heq⟩

/-- A counter of rounds before the last differs from `n`, and counts on. -/
theorem ofNat_round {r : Nat} (hr : r < n.toNat) :
    (BitVec.ofNat 32 r).toNat = r ∧ BitVec.ofNat 32 r ≠ n ∧ BitVec.ofNat 32 r + 1#32 = BitVec.ofNat 32 (r + 1) := by
  have hn := n.isLt
  have hval : (BitVec.ofNat 32 r).toNat = r := by rw [BitVec.toNat_ofNat, Nat.mod_eq_of_lt (by omega)]
  exact ⟨hval, fun heq => hr.ne (hval.symm.trans (congrArg BitVec.toNat heq)), (BitVec.ofNat_add r 1).symm⟩

/-- R135, R137: `r` steps of stage RB are the first `r` rounds of the backward walk. -/
theorem AtPhase.rb_run (h : AtPhase u cmd ⟨.rb, j, 0#32, n, (n - 1#32).setWidth 5⟩ t) {r : Nat}
    (hr : r ≤ n.toNat) :
    AtPhase { u with x := backAfter u.k u.e u.p n.toNat r u.x } cmd
      ⟨.rb, j, BitVec.ofNat 32 r, n, (n - 1#32 - BitVec.ofNat 32 r).setWidth 5⟩ (engineRun r t) := by
  induction r with
  | zero =>
    rw [BitVec.sub_zero]
    exact h
  | succ r ih =>
    obtain ⟨hval, hne, hsucc⟩ := ofNat_round hr
    have hround := (ih (by omega)).rb_round hne
    rw [windowKey_of_back _ (hval.trans_lt hr), hval, setWidth_sub_succ, hsucc] at hround
    rw [engineRun_succ_right]
    exact hround

/-- R136, R138: `r` steps of stage RF are the first `r` rounds of the forward walk. -/
theorem AtPhase.rf_run (h : AtPhase u cmd ⟨.rf, j, 0#32, n, 0#5⟩ t) {r : Nat} (hr : r ≤ n.toNat) :
    AtPhase { u with x := forwAfter u.k u.p r u.x } cmd
      ⟨.rf, j, BitVec.ofNat 32 r, n, (BitVec.ofNat 32 r).setWidth 5⟩ (engineRun r t) := by
  induction r with
  | zero => exact h
  | succ r ih =>
    obtain ⟨hval, hne, hsucc⟩ := ofNat_round hr
    have hround := (ih (by omega)).rf_round hne
    rw [windowKey_of_forw, hval, setWidth_succ, hsucc] at hround
    rw [engineRun_succ_right]
    exact hround

end Loops

/-! ### The whole of a command, from its acceptance (R203) -/

section Whole

variable {s : State}

theorem engineRun_of_ar {i : Instr} (hfirst : firstStage i = .ar) :
    engineRun 2 (accept i s) = complete i (effectOf i (accept i s)) := by
  have hstart := atPhase_of_run (accept_seq i s)
  rw [firstPhase, hfirst] at hstart
  exact (hstart.ar hfirst).fin

theorem engineRun_check : engineRun 1 (accept .check s) = complete .check (effectOf .check (accept .check s)) :=
  (atPhase_of_run (accept_seq .check s)).ck

theorem engineRun_fillk (ho : s.outstanding = none) :
    engineRun 18 (accept .fillk s) = complete .fillk (effectOf .fillk (accept .fillk s)) := by
  have hkeys := (atPhase_of_run (accept_seq .fillk s)).fk_all ho
  rw [engineRun_succ_right]
  exact hkeys.fin

theorem engineRun_delay (ho : s.outstanding = none) :
    engineRun (21 + s.rounds.toNat) (accept .delay s) = complete .delay (effectOf .delay (accept .delay s)) := by
  have hkeys := (atPhase_of_run (accept_seq .delay s)).fk_all ho
  have hrounds := hkeys.sp_delay.sd.rb_run le_rfl
  rw [BitVec.ofNat_toNat, BitVec.setWidth_eq] at hrounds
  rw [show 21 + s.rounds.toNat = 17 + 1 + 1 + s.rounds.toNat + 1 + 1 by omega, engineRun_succ_right,
    engineRun_succ_right, engineRun_add, engineRun_succ_right, engineRun_succ_right]
  exact hrounds.rb_done.fin

theorem engineRun_verify (ho : s.outstanding = none) :
    engineRun (20 + s.rounds.toNat) (accept .verify s) = complete .verify (effectOf .verify (accept .verify s)) := by
  have hkeys := (atPhase_of_run (accept_seq .verify s)).fk_all ho
  have hrounds := hkeys.sp_verify.rf_run le_rfl
  rw [BitVec.ofNat_toNat, BitVec.setWidth_eq] at hrounds
  rw [show 20 + s.rounds.toNat = 17 + 1 + s.rounds.toNat + 1 + 1 by omega, engineRun_succ_right,
    engineRun_succ_right, engineRun_add, engineRun_succ_right]
  exact hrounds.rf_done.ck

/-- R139, R203: from its acceptance each command takes the steps counted for it, and ends with its Operation's
data. -/
theorem engineRun_stepsToComplete (i : Instr) (ho : s.outstanding = none) :
    engineRun (stepsToComplete s.rounds.toNat i) (accept i s) = complete i (effectOf i (accept i s)) := by
  cases i with
  | nop => exact engineStep_accept_nop s
  | mulmod | modpow | cube | selp | ldp | calce | seed | rndb | rndf => exact engineRun_of_ar rfl
  | check => exact engineRun_check
  | fillk => exact engineRun_fillk ho
  | delay => exact engineRun_delay ho
  | verify => exact engineRun_verify ho

end Whole

/-! ### The machine with nothing pending is the engine (R203) -/

/-- No row of R139 touches the cipher port's request or the events to come. -/
theorem phaseStep_outstanding_inputs (cmd : Instr) (ph : Phase) (s : State) :
    (phaseStep cmd ph s).outstanding = s.outstanding ∧ (phaseStep cmd ph s).inputs = s.inputs := by
  cases hstage : ph.stage with
  | ar =>
    simp only [phaseStep, hstage]
    cases cmd <;> exact ⟨rfl, rfl⟩
  | fk =>
    cases ho : s.outstanding with
    | none =>
      rw [phaseStep_fk hstage ho]
      exact ⟨ho, rfl⟩
    | some b =>
      rw [phaseStep_fk_waiting hstage ho]
      exact ⟨ho, rfl⟩
  | sp =>
    simp only [phaseStep, hstage, spStep]
    split <;> exact ⟨rfl, rfl⟩
  | rb =>
    simp only [phaseStep, hstage, rbStep]
    split <;> exact ⟨rfl, rfl⟩
  | rf =>
    simp only [phaseStep, hstage, rfStep]
    split <;> exact ⟨rfl, rfl⟩
  | sd | ck | fin =>
    simp only [phaseStep, hstage]
    exact ⟨rfl, rfl⟩

theorem engineStep_outstanding_inputs (s : State) :
    (engineStep s).outstanding = s.outstanding ∧ (engineStep s).inputs = s.inputs := by
  cases hseq : s.seq with
  | idle =>
    rw [engineStep_of_idle hseq]
    exact ⟨rfl, rfl⟩
  | run cmd ph =>
    rw [engineStep_of_run hseq]
    exact phaseStep_outstanding_inputs cmd ph s

theorem step_of_quiet {s : State} (ho : s.outstanding = none) (hin : s.inputs = []) :
    step s = .next (engineStep s) := by
  rw [step_of_nil hin, ownTurn, ho]

theorem core_run_succ (M : Host.Core) {m : Nat} {s t : M.State} (h : M.step s = .next t) :
    M.run (m + 1) s = M.run m t := by
  simp only [Host.Core.run, h]

/-- With no event pending and no request in flight, the machine's steps are the engine's. -/
theorem core_run_of_quiet (m : Nat) {s : State} (ho : s.outstanding = none) (hin : s.inputs = []) :
    core.run m s = .next (engineRun m s) := by
  induction m generalizing s with
  | zero => rfl
  | succ m ih =>
    obtain ⟨ho', hin'⟩ := engineStep_outstanding_inputs s
    exact (core_run_succ core (step_of_quiet ho hin)).trans (ih (ho'.trans ho) (hin'.trans hin))

/-- R164: an idle block accepts a command's word. -/
theorem step_write_encode {s : State} (hb : s.busy = false) (i : Instr) (rest : List Event) :
    step { s with inputs := .write 0x03#7 (encode i) :: rest } = .next (accept i { s with inputs := rest }) := by
  rw [step_write_cmd rfl]
  exact issueWith_of_decoded (s := { s with inputs := rest }) hb (decode_encode i)

/-! ### The statements -/

/-- Settles O38: `AtPhase.fk_all`, read off field by field. -/
theorem keyControllerFillsTheSchedule : Obligations.KeyControllerFillsTheSchedule := by
  intro s cmd n hcmd hrun ho
  obtain ⟨hidden, heq⟩ := (atPhase_of_run hrun).fk_all ho
  have hafter : afterFk cmd = if cmd = .fillk then .fin else .sp := by
    obtain rfl | rfl | rfl := hcmd <;> rfl
  rw [heq, ← hafter]
  exact ⟨rfl, rfl, rfl, rfl⟩

/-- Settles O39: the request keeps the state but for itself, and its answer is absorbed as the engine's own. -/
theorem cipherPortSplitsTheKeyStep : Obligations.CipherPortSplitsTheKeyStep := by
  refine ⟨fun s cmd ph hrun hstage ho => ?split, fun s => cipherAnswer_of_none rfl⟩
  have hrequest := cipherRequest_of_fk hrun hstage ho
  have hwaiting : (cipherRequest s).outstanding = some (fkPlaintext ph.j s) := by rw [hrequest]
  have hrun' : (cipherRequest s).seq = .run cmd ph := by rw [hrequest, hrun]
  have hforget : { cipherRequest s with outstanding := none } = s := by rw [hrequest, ← ho]
  refine ⟨?_, ?_, cipherRequest_of_some hwaiting⟩
  · rw [cipherAnswer_of_fk hrun' hstage hwaiting, hforget, engineStep_of_run hrun, phaseStep_fk hstage ho]
  · rw [engineStep_of_run hrun', phaseStep_fk_waiting hstage hwaiting]

/-- Settles O40: FIN completes the state as it is, CK after the comparison. -/
theorem completingStepEndsTheCommand : Obligations.CompletingStepEndsTheCommand := by
  intro s cmd ph hrun
  have hfin (hstage : ph.stage = .fin) : engineStep s = complete cmd s := by
    rw [engineStep_of_run hrun, phaseStep_fin hstage]
  have hck (hstage : ph.stage = .ck) : engineStep s = complete cmd (checkEffect s) := by
    rw [engineStep_of_run hrun, phaseStep_ck hstage]
  refine ⟨fun hstage => ?completed, fun hin => ⟨fun hstage => ?fin, fun hstage => ?ck⟩⟩
  case completed =>
    obtain hstage | hstage := hstage
    · rw [hfin hstage]
      constructor <;> rfl
    · rw [hck hstage]
      constructor <;> rfl
  case fin =>
    rw [hfin hstage]
    exact complete_data_of_written hin
  case ck =>
    obtain ⟨hdata, hok⟩ := complete_data_of_written (s := checkEffect s) hin
    rw [hck hstage]
    exact ⟨(sameData_effectOf_check s).trans hdata, hok ▸ verifyEq_iff s.x s.k[33] (modulus_pos s.plo)⟩

/-- Settles O37: the issue is the acceptance, the steps after it are the engine's, and the engine's steps end with the
command's Operation. -/
theorem engineStepsComposeToTheCommand : Obligations.EngineStepsComposeToTheCommand := by
  intro i s hb ho hin
  have hissue := step_write_encode hb i []
  have hsame : { s with inputs := [] } = s := by rw [← hin]
  rw [hsame] at hissue
  rw [Nat.add_comm, exec_of_idle hb, ← engineRun_stepsToComplete i ho]
  refine Eq.trans (core_run_succ core ?_) (core_run_of_quiet (s := accept i s) _ ho hin)
  exact hissue

end Sys2Proof.Machine

/-! PROOFS of the statements on a step, on reset and on the host register port (family `other`): which numbers of the
register map are refused or owned, and what reset and a pending command word do. -/

namespace Sys2Proof.Machine

/-! ### The register map by ranges (R43, R54) -/

/-- CMD and the reserved numbers. -/
theorem regOf_cmd_or_reserved {n : RegNum}
    (h : n = 0x03#7 ∨ (0x0B ≤ n.toNat ∧ n.toNat ≤ 0x0F) ∨ (0x14 ≤ n.toNat ∧ n.toNat ≤ 0x1F) ∨ 0x42 ≤ n.toNat) :
    regOf n = .cmd ∨ regOf n = .reserved := by
  revert n
  decide

/-- ID, R and the reserved numbers. -/
theorem regOf_refused {n : RegNum}
    (h : n = 0x00#7 ∨ (0x0A ≤ n.toNat ∧ n.toNat ≤ 0x0F) ∨ (0x14 ≤ n.toNat ∧ n.toNat ≤ 0x1F) ∨ 0x42 ≤ n.toNat) :
    regOf n = .id ∨ regOf n = .r ∨ regOf n = .reserved := by
  revert n
  decide

/-- The registers the host may store to. -/
theorem regOf_owned {n : RegNum}
    (h : (0x04 ≤ n.toNat ∧ n.toNat ≤ 0x09) ∨ (0x10 ≤ n.toNat ∧ n.toNat ≤ 0x13)
      ∨ (0x20 ≤ n.toNat ∧ n.toNat ≤ 0x41)) :
    (regOf n).owned = true ∧ regOf n ≠ .r := by
  revert n
  decide

/-! ### Reads (R41) -/

/-- CMD and the reserved numbers are not the engine's, so they read 0 at any time. -/
theorem readValue_of_zero_reg {n : RegNum} (s : State) (h : regOf n = .cmd ∨ regOf n = .reserved) :
    readValue n s = 0#64 := by
  obtain h | h := h <;> simp [readValue, h, Reg.owned, regValue]

theorem readValue_of_idle {s : State} (hb : s.busy = false) (reg : Reg) : readValue reg.number s = regValue s reg := by
  simp [readValue, hb]

/-- R15, R41: P reads with its fixed upper bits. -/
theorem toNat_regValue_p (s : State) : (regValue s .p).toNat = 0x000FFFFF00000000 + s.plo.toNat := by
  have hwidth : (regValue s .p).toNat = s.p.toNat := BitVec.toNat_setWidth_of_le (by decide)
  rw [hwidth, toNat_p]

/-! ### The merged command (R51, R164) -/

/-- A command's word is refused by the issue as the command itself is, so BUSY needs no case of its own. -/
theorem issueWith_exec_of_decoded {w : Word} {i : Instr} {s : State} (hd : decode w = .ok i) :
    issueWith exec w s = exec i s := by
  cases hb : s.busy with
  | true => rw [issueWith_of_busy hb, exec_eq_runCommand, runCommand_of_busy hb]
  | false => exact issueWith_of_decoded hb hd

/-! ### The statements -/

/-- Settles O4: the step hands the word to the issue, which runs the command, or refuses it with the code `exec` refuses
it with. -/
theorem stepRunsDecodedCommand : Obligations.StepRunsDecodedCommand := by
  have hrun (s : State) (w : Word) (rest : List Event) (i : Instr) (hin : s.inputs = .command w :: rest)
      (hd : decode w = .ok i) : step s = exec i { s with inputs := rest } :=
    (step_of_cons hin).trans (issueWith_exec_of_decoded hd)
  refine ⟨hrun, fun s i => hrun _ _ s.inputs i rfl ?_⟩
  rw [Nat.mod_eq_of_lt (encode i).isLt, BitVec.ofNat_toNat, BitVec.setWidth_eq]
  exact decode_encode i

/-- Settles O33: every command is a `runCommand`. -/
theorem busyCommandIsRefused : Obligations.BusyCommandIsRefused := by
  intro i s hb
  rw [exec_eq_runCommand, runCommand_of_busy hb]
  rfl

/-- Settles O7: the control state is written out by `State.afterReset`, and P is above its fixed bits for every
PLO. -/
theorem resetLeavesControlStateClear : Obligations.ResetLeavesControlStateClear :=
  ⟨rfl, rfl, rfl, rfl, rfl, rfl, rfl, rfl, rfl, rfl, rfl, modulus_lower State.reset.plo⟩

/-- Settles O8: both events are `resetBlock`. -/
theorem softResetEqualsHardwareReset : Obligations.SoftResetEqualsHardwareReset := by
  intro s v rest hv
  have hsoft : step { s with inputs := .write 0x01#7 v :: rest } = .next (resetBlock { s with inputs := rest }) := by
    rw [step_write_ctrl rfl, writeCtrl_of_reset hv]
  exact ⟨_, step_rst s rest, hsoft, rfl, rfl, rfl, rfl, rfl, rfl, rfl, rfl, rfl, rfl, rfl⟩

/-- Settles O14: the read itself, then the numbers that read 0, then the map number by number. -/
theorem readsFollowTheRegisterMap : Obligations.ReadsFollowTheRegisterMap := by
  intro s n rest hin
  refine ⟨⟨_, step_of_cons hin, fun hb => ?counter⟩, fun hn => readValue_of_zero_reg s (regOf_cmd_or_reserved hn),
    fun hb => ?map⟩
  case counter => simp [hb]
  case map =>
    have hread := readValue_of_idle hb
    exact ⟨hread .rounds, hread .a, hread .b, hread .e, (congrArg BitVec.toNat (hread .p)).trans (toNat_regValue_p s),
      hread .x, hread .r, fun i => hread (.ch i), fun i => hread (.k i)⟩

/-- Settles O16: the test for code 5 comes first, so it holds busy or not. -/
theorem refusedWritesRaiseTheirCode : Obligations.RefusedWritesRaiseTheirCode := by
  intro s n v rest hin
  have hstep : step s = regWrite n v { s with inputs := rest } := step_of_cons hin
  rw [hstep]
  refine ⟨fun hn => ?_, fun hb hn => ?_⟩
  · exact regWrite_of_refused (regOf_refused hn)
  · obtain ⟨howned, hr⟩ := regOf_owned hn
    rw [regWrite_of_owned howned hr, writeOwned_of_busy (s := { s with inputs := rest }) hb]
    rfl

end Sys2Proof.Machine

/-! PROOFS of the statements on whole commands (family `other`): the registers a command leaves alone, that the hidden
registers play no part, and the two walks by their running values. -/

namespace Sys2Proof.Machine

/-! ### What a command leaves unchanged (R20) -/

/-- From `s` to `t` no register changes but those `o` names, and none that no command writes. -/
structure WritesOnly (o : Outputs) (s t : State) : Prop where
  rounds : t.rounds = s.rounds
  a : t.a = s.a
  b : t.b = s.b
  ch : t.ch = s.ch
  ie : t.ie = s.ie
  r : o.r = false → t.r = s.r
  k : o.k = false → t.k = s.k
  plo : o.p = false → t.plo = s.plo
  e : o.e = false → t.e = s.e
  x : o.x = false → t.x = s.x

theorem writesOnly_raiseErr (o : Outputs) (c : ErrCode) (s : State) : WritesOnly o s (raiseErr c s) := by
  constructor <;> intros <;> rfl

theorem writesOnly_effectOf (i : Instr) (s : State) : WritesOnly (outputsOf i) s (effectOf i s) := by
  cases i <;> constructor <;>
    simp [outputsOf, effectOf, mulmodEffect, modpowEffect, cubeEffect, fillkEffect, selpEffect, ldpEffect,
      calceEffect, seedEffect, rndbEffect, rndfEffect, checkEffect, delayEffect, verifyEffect]

/-- Completion puts free values in the command's own outputs alone. -/
theorem writesOnly_complete (i : Instr) (s : State) : WritesOnly (outputsOf i) s (complete i s) := by
  constructor <;> intros <;> simp_all

theorem writesOnly_accept (o : Outputs) (i : Instr) (s : State) : WritesOnly o s (accept i s) := by
  constructor <;> intros <;> rfl

theorem WritesOnly.trans {o : Outputs} {s t u : State} (hst : WritesOnly o s t) (htu : WritesOnly o t u) :
    WritesOnly o s u where
  rounds := htu.rounds.trans hst.rounds
  a := htu.a.trans hst.a
  b := htu.b.trans hst.b
  ch := htu.ch.trans hst.ch
  ie := htu.ie.trans hst.ie
  r h := (htu.r h).trans (hst.r h)
  k h := (htu.k h).trans (hst.k h)
  plo h := (htu.plo h).trans (hst.plo h)
  e h := (htu.e h).trans (hst.e h)
  x h := (htu.x h).trans (hst.x h)

/-- A refused command writes nothing; an accepted one is acceptance, its Operation and completion. -/
theorem writesOnly_of_exec {i : Instr} {s t : State} (h : exec i s = .next t) : WritesOnly (outputsOf i) s t := by
  rw [exec_eq_runCommand] at h
  obtain ⟨-, rfl⟩ | ⟨-, rfl⟩ := runCommand_cases h
  · exact writesOnly_raiseErr _ _ s
  · exact ((writesOnly_accept _ i s).trans (writesOnly_effectOf i _)).trans (writesOnly_complete i _)

theorem output_of_ne {α : Type} {o : Bool} {v w : α} (h : o = false → v = w) (hne : v ≠ w) : o = true :=
  Bool.eq_true_of_not_eq_false fun ho => hne (h ho)

/-! ### The hidden registers (R30) -/

/-- R30: no Operation reads a hidden register. -/
theorem effectOf_with_hidden (i : Instr) (s : State) (h : Hidden) :
    effectOf i { s with hidden := h } = { effectOf i s with hidden := h } := by
  cases i <;> rfl

theorem accept_with_hidden (i : Instr) (s : State) (h : Hidden) :
    accept i { s with hidden := h } = { accept i s with hidden := h } := rfl

/-- R30: completion leaves the hidden registers unspecified, whatever they held. -/
theorem complete_with_hidden (i : Instr) (s : State) (h : Hidden) :
    complete i { s with hidden := h } = complete i s := rfl

/-! ### The walks by their running values (R137, R138) -/

theorem backAfter_lt (k : Keys) (e : Field) {p : Field} (hp : 0 < p.toNat) (n r : Nat) {x : Field} (hx : x < p) :
    backAfter k e p n r x < p := by
  cases r with
  | zero => exact hx
  | succ r => exact bwd_lt _ _ _ hp

theorem seedOf_lt (k : Keys) {p : Field} (hp : 0 < p.toNat) : seedOf k p < p :=
  lt_of_toNat_eq_mod hp (toNat_seedOf k hp)

/-- R137: what DELAY leaves in each data register, and OK. -/
theorem exec_delay_results {s : State} (hb : s.busy = false) (hin : readsWritten s.written .delay = true) :
    ∃ t, exec .delay s = .next t ∧ Completed s t ∧ t.ok = false
      ∧ t.k = schedule Config.enc s.ch
      ∧ t.plo = Config.primeTable (primeIndex t.k)
      ∧ t.e = exponentOf t.p
      ∧ t.x = backAfter t.k t.e t.p s.rounds.toNat s.rounds.toNat (seedOf t.k t.p)
      ∧ SameData { s with k := t.k, plo := t.plo, e := t.e, x := t.x } t := by
  obtain ⟨t, hexec, hdone, hok, hdata⟩ := exec_of_inputs_written hb hin
  have hk : t.k = schedule Config.enc s.ch := hdata.k
  have hplo : t.plo = Config.primeTable (primeIndex t.k) := hk ▸ hdata.plo
  have hp := p_of_selected_prime rfl hplo
  have he : t.e = exponentOf t.p := by
    rw [hp, hk]
    exact hdata.e
  have hx : t.x = backAfter t.k t.e t.p s.rounds.toNat s.rounds.toNat (seedOf t.k t.p) := by
    rw [he, hp, hk]
    exact hdata.x
  exact ⟨t, hexec, hdone, hok, hk, hplo, he, hx, hdone.rounds, hdone.a, hdone.b, rfl, rfl, rfl, hdata.r, hdone.ch,
    rfl⟩

/-- R138: what VERIFY leaves in each data register, and OK. -/
theorem exec_verify_results {s : State} (hb : s.busy = false) (hin : readsWritten s.written .verify = true) :
    ∃ t, exec .verify s = .next t ∧ Completed s t
      ∧ t.k = schedule Config.enc s.ch
      ∧ t.plo = Config.primeTable (primeIndex t.k)
      ∧ t.x = forwAfter t.k t.p s.rounds.toNat s.x
      ∧ t.ok = verifyEq t.x t.k[33] t.p
      ∧ SameData { s with k := t.k, plo := t.plo, x := t.x } t := by
  obtain ⟨t, hexec, hdone, hok, hdata⟩ := exec_of_inputs_written hb hin
  have hk : t.k = schedule Config.enc s.ch := hdata.k
  have hplo : t.plo = Config.primeTable (primeIndex t.k) := hk ▸ hdata.plo
  have hp := p_of_selected_prime rfl hplo
  have hx : t.x = forwAfter t.k t.p s.rounds.toNat s.x := by
    rw [hp, hk]
    exact hdata.x
  have hok' : t.ok = verifyEq t.x t.k[33] t.p := by
    rw [hx, hp]
    simp only [hk]
    exact hok
  exact ⟨t, hexec, hdone, hk, hplo, hx, hok', hdone.rounds, hdone.a, hdone.b, hdata.e, rfl, rfl, hdata.r, hdone.ch,
    rfl⟩

/-! ### The statements -/

/-- Settles O21: the value left in R is the `modpow` of R82. -/
theorem modpowWritesPowerResidue : Obligations.ModpowWritesPowerResidue := by
  refine ⟨decode_encode .modpow, fun s hb ha he hp => ?_⟩
  have hin : readsWritten s.written .modpow = true := by simp [readsWritten, ha, he, hp]
  have hpos : 0 < s.p.toNat := modulus_pos s.plo
  obtain ⟨t, hexec, hdone, hok, hr, hdata⟩ := exec_of_writes_r (v := modpow s.a s.e s.p) hb hin rfl
  exact ⟨t, hexec, hdone, hok, hr ▸ toNat_modpow _ _ _ hpos, hr ▸ modpow_lt _ _ _ hpos, hdata⟩

/-- Settles O30: the running values are those of `backAfter` from the seed. -/
theorem delayRunsTheBackwardWalk : Obligations.DelayRunsTheBackwardWalk := by
  intro s hb hch hrounds
  have hin : readsWritten s.written .delay = true := by
    simp only [readsWritten, (challengeWritten_iff _).mpr hch, hrounds, Bool.and_self]
  obtain ⟨t, hexec, hdone, hok, hk, hplo, he, hx, hdata⟩ := exec_delay_results hb hin
  have hpos : 0 < t.p.toNat := modulus_pos t.plo
  have hlt : t.x < t.p := by
    rw [hx]
    exact backAfter_lt _ _ hpos _ _ (seedOf_lt t.k hpos)
  refine ⟨t, hexec, hdone, hok, hk, primeIndex_eq t.k ▸ hplo, by rw [he, toNat_exponentOf], hdata,
    fun r => backAfter t.k t.e t.p s.rounds.toNat r (seedOf t.k t.p), toNat_seedOf t.k hpos, fun r _ => rfl, hx, hlt⟩

/-- Settles O31: the running values are those of `forwAfter` from the proof. -/
theorem verifyRunsTheForwardWalk : Obligations.VerifyRunsTheForwardWalk := by
  intro s hb hch hrounds hxw
  have hin : readsWritten s.written .verify = true := by
    simp only [readsWritten, (challengeWritten_iff _).mpr hch, hrounds, hxw, Bool.and_self]
  obtain ⟨t, hexec, hdone, hk, hplo, hx, hok, hdata⟩ := exec_verify_results hb hin
  exact ⟨t, hexec, hdone, hk, primeIndex_eq t.k ▸ hplo, hdata, hok ▸ verifyEq_iff _ _ (modulus_pos t.plo),
    fun r => forwAfter t.k t.p r s.x, rfl, fun r _ => rfl, hx⟩

/-- Settles O34: a register that changed is one the command's row of R20 names. -/
theorem commandsWriteOnlyTheirRegisters : Obligations.CommandsWriteOnlyTheirRegisters := by
  intro i s t h
  have hw := writesOnly_of_exec h
  exact ⟨hw.rounds, hw.a, hw.b, hw.ch, hw.ie,
    fun hne => (outputsOf_r_iff i).mp (output_of_ne hw.r hne),
    fun hne => (outputsOf_k_iff i).mp (output_of_ne hw.k hne),
    fun hne => (outputsOf_p_iff i).mp (output_of_ne hw.plo hne),
    fun hne => (outputsOf_e_iff i).mp (output_of_ne hw.e hne),
    fun hne => (outputsOf_x_iff i).mp (output_of_ne hw.x hne)⟩

/-- Settles O35: acceptance and the Operation pass the hidden registers through, and completion forgets them. -/
theorem hiddenStateCarriesNothing : Obligations.HiddenStateCarriesNothing := by
  intro i s h hb
  rw [exec_of_idle hb, exec_of_idle (s := { s with hidden := h }) hb, accept_with_hidden, effectOf_with_hidden,
    complete_with_hidden]

/-- Settles O36: `exec_delay_results` and `exec_verify_results` say what a walk leaves in each register, in terms of
CH, ROUNDS and X. -/
theorem walksDependOnTheirInputsOnly : Obligations.WalksDependOnTheirInputsOnly := by
  intro s u hbs hbu hch hrounds hchw hrs hru
  have hchs := (challengeWritten_iff s.written).mpr fun i => (hchw i).1
  have hchu := (challengeWritten_iff u.written).mpr fun i => (hchw i).2
  refine ⟨?delay, fun hx hxs hxu => ?verify⟩
  case delay =>
    obtain ⟨t, hexec, -, hok, hk, hplo, he, hx, -⟩ :=
      exec_delay_results hbs (by simp only [readsWritten, hchs, hrs, Bool.and_self])
    obtain ⟨v, hexec', -, hok', hk', hplo', he', hx', -⟩ :=
      exec_delay_results hbu (by simp only [readsWritten, hchu, hru, Bool.and_self])
    have hkeys : t.k = v.k := by rw [hk, hk', hch]
    have hprime : t.plo = v.plo := by rw [hplo, hplo', hkeys]
    have hp : t.p = v.p := congrArg modulus hprime
    have hexp : t.e = v.e := by rw [he, he', hp]
    exact ⟨t, v, hexec, hexec', hkeys, hprime, hexp, by rw [hx, hx', hkeys, hexp, hp, hrounds], hok.trans hok'.symm⟩
  case verify =>
    obtain ⟨t, hexec, -, hk, hplo, hx1, hok, -⟩ :=
      exec_verify_results hbs (by simp only [readsWritten, hchs, hrs, hxs, Bool.and_self])
    obtain ⟨v, hexec', -, hk', hplo', hx2, hok', -⟩ :=
      exec_verify_results hbu (by simp only [readsWritten, hchu, hru, hxu, Bool.and_self])
    have hkeys : t.k = v.k := by rw [hk, hk', hch]
    have hprime : t.plo = v.plo := by rw [hplo, hplo', hkeys]
    have hp : t.p = v.p := congrArg modulus hprime
    have hlast : t.x = v.x := by rw [hx1, hx2, hkeys, hp, hrounds, hx]
    exact ⟨t, v, hexec, hexec', hkeys, hprime, hlast, by simp only [hok, hok', hlast, hkeys, hp]⟩

end Sys2Proof.Machine

/-! PROOFS of the integer multiplier's statement (family `other`): the loop of R86 keeps the product's residue, and 52
iterations empty the first operand. -/

namespace Sys2Proof.Machine

/-! ### One conditional subtraction on a sum (R86) -/

theorem toNat_reduceOnce {t : Nat} {p : Field} (h : t < 2 * p.toNat) : (reduceOnce t p).toNat = t % p.toNat := by
  have hp := p.isLt
  rw [reduceOnce]
  split
  next hle => rw [BitVec.toNat_ofNat, Nat.mod_eq_sub_mod hle, Nat.mod_eq_of_lt (by omega), Nat.mod_eq_of_lt (by omega)]
  next hlt => rw [BitVec.toNat_ofNat, Nat.mod_eq_of_lt (by omega), Nat.mod_eq_of_lt (by omega)]

/-! ### The loop (R86) -/

/-- The lowest bit of MA decides whether MB is added. -/
theorem getElem_zero_iff (v : Field) : v[0] = true ↔ v.toNat % 2 = 1 := by
  rw [← BitVec.getLsbD_eq_getElem, BitVec.getLsbD, Nat.testBit_zero, decide_eq_true_iff]

section Loop

variable {p : Field} {h : Hidden}

theorem intIteration_ma : (intIteration p h).ma.toNat = h.ma.toNat / 2 := by
  simp [intIteration, BitVec.toNat_ushiftRight, Nat.shiftRight_one]

/-- R86: with MB below `p` its double takes one subtraction. -/
theorem intIteration_mb (hmb : h.mb.toNat < p.toNat) : (intIteration p h).mb.toNat = 2 * h.mb.toNat % p.toNat :=
  toNat_reduceOnce (by omega)

theorem intIteration_mres (hmb : h.mb.toNat < p.toNat) (hmres : h.mres.toNat < p.toNat) :
    (intIteration p h).mres.toNat = (h.mres.toNat + h.ma.toNat % 2 * h.mb.toNat) % p.toNat := by
  have hbit := getElem_zero_iff h.ma
  by_cases hodd : h.ma.toNat % 2 = 1
  · have hstep : (intIteration p h).mres = reduceOnce (h.mres.toNat + h.mb.toNat) p := if_pos (hbit.mpr hodd)
    rw [hstep, toNat_reduceOnce (by omega), hodd, one_mul]
  · have hstep : (intIteration p h).mres = h.mres := if_neg (mt hbit.mp hodd)
    rw [hstep, Nat.mod_two_ne_one.mp hodd, zero_mul, add_zero, Nat.mod_eq_of_lt hmres]

/-- What the loop keeps: MRES plus the product still to be added, modulo `p`. -/
theorem intIteration_product (hmb : h.mb.toNat < p.toNat) (hmres : h.mres.toNat < p.toNat) :
    ((intIteration p h).mres.toNat + (intIteration p h).ma.toNat * (intIteration p h).mb.toNat) % p.toNat
      = (h.mres.toNat + h.ma.toNat * h.mb.toNat) % p.toNat := by
  have hsplit : h.ma.toNat = h.ma.toNat % 2 + 2 * (h.ma.toNat / 2) := (Nat.mod_add_div _ 2).symm
  rw [intIteration_ma, intIteration_mb hmb, intIteration_mres hmb hmres]
  calc ((h.mres.toNat + h.ma.toNat % 2 * h.mb.toNat) % p.toNat
          + h.ma.toNat / 2 * (2 * h.mb.toNat % p.toNat)) % p.toNat
      = (h.mres.toNat + h.ma.toNat % 2 * h.mb.toNat + h.ma.toNat / 2 * (2 * h.mb.toNat)) % p.toNat := by
        rw [Nat.mod_add_mod, Nat.add_mod, Nat.mul_mod_mod, ← Nat.add_mod]
    _ = (h.mres.toNat + (h.ma.toNat % 2 + 2 * (h.ma.toNat / 2)) * h.mb.toNat) % p.toNat := by ring_nf
    _ = (h.mres.toNat + h.ma.toNat * h.mb.toNat) % p.toNat := by rw [← hsplit]

/-- R86: when the fuel covers MA's bits, the loop ends with the residue of the product in MRES. -/
theorem intLoop_mres (fuel : Nat) {h : Hidden} (hfuel : h.ma.toNat < 2 ^ fuel) (hmb : h.mb.toNat < p.toNat)
    (hmres : h.mres.toNat < p.toNat) :
    (intLoop p fuel h).mres.toNat = (h.mres.toNat + h.ma.toNat * h.mb.toNat) % p.toNat := by
  have hdone {h : Hidden} (hzero : h.ma.toNat = 0) (hmres : h.mres.toNat < p.toNat) :
      h.mres.toNat = (h.mres.toNat + h.ma.toNat * h.mb.toNat) % p.toNat := by
    rw [hzero, zero_mul, add_zero, Nat.mod_eq_of_lt hmres]
  induction fuel generalizing h with
  | zero =>
    have hzero : h.ma.toNat = 0 := by simpa using hfuel
    exact hdone hzero hmres
  | succ fuel ih =>
    rw [intLoop]
    split
    next hzero => exact hdone (by rw [hzero]; rfl) hmres
    next hne =>
      have hpos : 0 < p.toNat := by omega
      have hma' : (intIteration p h).ma.toNat < 2 ^ fuel := by
        rw [intIteration_ma]
        omega
      have hmb' : (intIteration p h).mb.toNat < p.toNat := intIteration_mb hmb ▸ Nat.mod_lt _ hpos
      have hmres' : (intIteration p h).mres.toNat < p.toNat := intIteration_mres hmb hmres ▸ Nat.mod_lt _ hpos
      rw [ih hma' hmb' hmres', intIteration_product hmb hmres]

end Loop

/-! ### The statement -/

theorem mulmodInt_eq_mulmod (a b : Field) (plo : BitVec 32) (h : Hidden) :
    mulmodInt a b (modulus plo) h = mulmod a b (modulus plo) := by
  have hpos := modulus_pos plo
  have hstart := intLoop_mres (p := modulus plo) 52
    (h := { h with ma := canon a (modulus plo), mb := canon b (modulus plo), mres := 0#52 })
    (canon a (modulus plo)).isLt (canon_modulus_lt b plo) hpos
  apply BitVec.eq_of_toNat_eq
  rw [toNat_mulmod _ _ _ hpos]
  refine hstart.trans ?_
  rw [BitVec.toNat_zero, zero_add, toNat_canon_modulus, toNat_canon_modulus, ← Nat.mul_mod]

/-- Settles O49: the loop's invariant, from the reduced operands and 0. -/
theorem integerMultiplierIsExact : Obligations.IntegerMultiplierIsExact := mulmodInt_eq_mulmod

end Sys2Proof.Machine

/-! PROOFS of the statements on the FPU-assisted multiplier (family `other`): one rounding of binary64 is off by at most
one part in 2^53 (R88), so the truncated quotient estimate is off by at most one (R90), which the biased quotient and
the final remainder make good (R89). -/

namespace Sys2Proof.Machine

/-! ### Rounding to the nearest integer -/

/-- Half a unit at most is lost or gained. -/
theorem roundDiv_near (num : Nat) {den : Nat} (hden : 0 < den) :
    2 * (roundDiv num den * den) ≤ 2 * num + den ∧ 2 * num ≤ 2 * (roundDiv num den * den) + den := by
  have hsplit : num / den * den + num % den = num := by rw [mul_comm, Nat.div_add_mod]
  have hrem := Nat.mod_lt num hden
  simp only [roundDiv]
  split
  next hup =>
    rw [Nat.add_mul, one_mul]
    omega
  next hdown => omega

theorem roundDiv_mul_right (c : Nat) {d : Nat} (hd : 0 < d) : roundDiv (c * d) d = c := by
  simp [roundDiv, Nat.mul_div_cancel _ hd, hd.ne]

theorem div_le_roundDiv (num den : Nat) : num / den ≤ roundDiv num den := by
  simp only [roundDiv]
  split <;> omega

theorem roundDiv_le_succ_div (num den : Nat) : roundDiv num den ≤ num / den + 1 := by
  simp only [roundDiv]
  split <;> omega

/-! ### The value of a bit pattern -/

theorem toNat_ofNat_pattern {e f : Nat} (he : e < 2047) (hf : f < 2 ^ 52) :
    (BitVec.ofNat 64 (e * 2 ^ 52 + f)).toNat = e * 2 ^ 52 + f := by
  rw [BitVec.toNat_ofNat, Nat.mod_eq_of_lt (by omega)]

/-- A normal number: exponent field `e`, fraction `f`, hidden bit. -/
theorem scaled_pattern {e f : Nat} (he : 1 ≤ e) (he' : e < 2047) (hf : f < 2 ^ 52) :
    scaled (BitVec.ofNat 64 (e * 2 ^ 52 + f)) = (2 ^ 52 + f) * 2 ^ e := by
  have hval := toNat_ofNat_pattern he' hf
  have hexp : ((BitVec.ofNat 64 (e * 2 ^ 52 + f)).extractLsb' 52 11).toNat = e := by
    rw [BitVec.extractLsb'_toNat, hval, Nat.shiftRight_eq_div_pow]
    omega
  have hfrac : ((BitVec.ofNat 64 (e * 2 ^ 52 + f)).extractLsb' 0 52).toNat = f := by
    rw [BitVec.extractLsb'_toNat, hval, Nat.shiftRight_zero]
    omega
  have hnormal : (BitVec.ofNat 64 (e * 2 ^ 52 + f)).extractLsb' 52 11 ≠ 0#11 := by
    intro hzero
    rw [hzero] at hexp
    simp at hexp
    omega
  rw [scaled, sigOf, expOf, hexp, hfrac, if_neg hnormal, max_eq_right he, add_comm]

/-- A significand rounded up to `2^53` carries into the exponent, and the value is right all the same. -/
theorem scaled_of_significand {ex sig : Nat} (hex : 1 ≤ ex) (hex' : ex ≤ 2045) (hlow : 2 ^ 52 ≤ sig)
    (hhigh : sig ≤ 2 ^ 53) : scaled (BitVec.ofNat 64 (ex * 2 ^ 52 + (sig - 2 ^ 52))) = sig * 2 ^ ex := by
  obtain hlt | heq := lt_or_eq_of_le hhigh
  · rw [scaled_pattern hex (by omega) (by omega), Nat.add_sub_cancel' hlow]
  · have hcarry : ex * 2 ^ 52 + (sig - 2 ^ 52) = (ex + 1) * 2 ^ 52 + 0 := by omega
    rw [hcarry, scaled_pattern (by omega) (by omega) (by omega), heq, pow_succ 2 ex]
    ring

/-! ### One rounding (R88) -/

/-- `v` is off `n` by at most one part in `2^53`. -/
def RoundsTo (v n : Nat) : Prop := v * 2 ^ 53 ≤ n * (2 ^ 53 + 1) ∧ n * 2 ^ 53 ≤ v * 2 ^ 53 + n

theorem RoundsTo.of_mul_right {v n c : Nat} (h : RoundsTo (v * c) (n * c)) (hc : 0 < c) : RoundsTo v n := by
  obtain ⟨hup, hdown⟩ := h
  exact ⟨Nat.le_of_mul_le_mul_right (by linarith) hc, Nat.le_of_mul_le_mul_right (by linarith) hc⟩

/-- The exponent of the scale, under a name, so that no tactic computes the power. -/
def scaleExponent : Nat := 1075

theorem unitScale_eq : unitScale = 2 ^ scaleExponent := by rw [unitScale, scaleExponent]

theorem unitScale_pos : 0 < unitScale := by
  rw [unitScale_eq]
  exact Nat.two_pow_pos scaleExponent

theorem mul_unitScale_lt {v k : Nat} (h : v < 2 ^ k) : v * unitScale < 2 ^ (k + scaleExponent) := by
  rw [unitScale_eq, pow_add]
  exact Nat.mul_lt_mul_of_pos_right h (Nat.two_pow_pos scaleExponent)

/-- The scaled value of anything but 0 is far above the subnormal range. -/
theorem le_mul_unitScale {v : Nat} (h : 0 < v) : 2 ^ 53 ≤ v * unitScale := by
  rw [unitScale_eq]
  exact (Nat.pow_le_pow_right (by decide) (by decide)).trans (Nat.le_mul_of_pos_left _ h)

/-- Where the significand has 53 bits: the exponent puts the scaled value between `2^52` and `2^53`. -/
theorem expFor_spec {num den : Nat} (h : 2 ^ 53 ≤ num * unitScale / den) :
    1 ≤ expFor num den ∧ 2 ^ (expFor num den + 52) ≤ num * unitScale / den
      ∧ num * unitScale / den < 2 ^ (expFor num den + 53) := by
  have hne : num * unitScale / den ≠ 0 := by
    intro hzero
    rw [hzero] at h
    exact absurd h (by decide)
  have hlog : 53 ≤ Nat.log2 (num * unitScale / den) := (Nat.le_log2 hne).mpr h
  have hexp : expFor num den = Nat.log2 (num * unitScale / den) - 52 := max_eq_right (by omega)
  have hlow : expFor num den + 52 = Nat.log2 (num * unitScale / den) := by omega
  have hhigh : expFor num den + 53 = Nat.log2 (num * unitScale / den) + 1 := by omega
  rw [hlow, hhigh]
  exact ⟨by omega, Nat.log2_self_le hne, Nat.lt_log2_self⟩

theorem expFor_lt {num den k : Nat} (h : 2 ^ 53 ≤ num * unitScale / den) (hk : num * unitScale / den < 2 ^ k) :
    expFor num den + 52 < k := by
  obtain ⟨-, hlow, -⟩ := expFor_spec h
  exact (Nat.pow_lt_pow_iff_right (by decide)).mp (hlow.trans_lt hk)

/-- In the normal range the rounded value is the integer significand at its exponent. -/
theorem scaled_roundRat {num den k : Nat} (h : 2 ^ 53 ≤ num * unitScale / den)
    (hlt : num * unitScale / den < 2 ^ k) (hk : k ≤ 2098) :
    scaled (roundRat num den)
      = roundDiv (num * unitScale) (den * 2 ^ expFor num den) * 2 ^ expFor num den := by
  obtain ⟨hex, hlow, hhigh⟩ := expFor_spec h
  have hex' := expFor_lt h hlt
  have hdiv : num * unitScale / (den * 2 ^ expFor num den) = num * unitScale / den / 2 ^ expFor num den :=
    (Nat.div_div_eq_div_mul _ _ _).symm
  have hsigLow : 2 ^ 52 ≤ num * unitScale / (den * 2 ^ expFor num den) := by
    rw [hdiv, Nat.le_div_iff_mul_le (Nat.two_pow_pos _), ← pow_add, add_comm]
    exact hlow
  have hsigHigh : num * unitScale / (den * 2 ^ expFor num den) < 2 ^ 53 := by
    rw [hdiv, Nat.div_lt_iff_lt_mul (Nat.two_pow_pos _), ← pow_add, add_comm]
    exact hhigh
  have hge := hsigLow.trans (div_le_roundDiv _ _)
  have hle : roundDiv (num * unitScale) (den * 2 ^ expFor num den) ≤ 2 ^ 53 :=
    (roundDiv_le_succ_div _ _).trans hsigHigh
  rw [← scaled_of_significand hex (by omega) hge hle, roundRat]
  simp only [if_neg (not_lt.mpr hge)]
  rw [min_eq_left (by omega)]

/-- R88: one rounding is off by at most one part in `2^53`. -/
theorem scaled_roundRat_near {num den k : Nat} (hden : 0 < den) (h : 2 ^ 53 ≤ num * unitScale / den)
    (hlt : num * unitScale / den < 2 ^ k) (hk : k ≤ 2098) :
    RoundsTo (scaled (roundRat num den) * den) (num * unitScale) := by
  obtain ⟨-, hlow, -⟩ := expFor_spec h
  have hunit : den * 2 ^ expFor num den * 2 ^ 52 ≤ num * unitScale := by
    have hmul := (Nat.le_div_iff_mul_le hden).mp hlow
    rwa [pow_add, mul_comm, ← mul_assoc] at hmul
  obtain ⟨hup, hdown⟩ := roundDiv_near (num * unitScale) (den := den * 2 ^ expFor num den)
    (Nat.mul_pos hden (Nat.two_pow_pos _))
  have hval : scaled (roundRat num den) * den
      = roundDiv (num * unitScale) (den * 2 ^ expFor num den) * (den * 2 ^ expFor num den) := by
    rw [scaled_roundRat h hlt hk]
    ring
  rw [RoundsTo, hval]
  omega

theorem roundRat_zero (den : Nat) : roundRat 0 den = 0#64 := by
  simp [roundRat, roundDiv]

theorem scaled_zero : scaled 0#64 = 0 := by
  simp [scaled, sigOf]

/-! ### The conversion, the product and the quotient of R89 -/

/-- R88: `f64` is exact below `2^53`. -/
theorem scaled_f64 {v : Nat} (hv : v < 2 ^ 53) : scaled (f64 v) = v * unitScale := by
  obtain rfl | hpos := Nat.eq_zero_or_pos v
  · rw [f64, roundRat_zero, scaled_zero, zero_mul]
  have hlow : 2 ^ 53 ≤ v * unitScale / 1 := by
    rw [Nat.div_one]
    exact le_mul_unitScale hpos
  have hhigh : v * unitScale / 1 < 2 ^ (53 + scaleExponent) := by
    rw [Nat.div_one]
    exact mul_unitScale_lt hv
  have hexp := expFor_lt hlow hhigh
  have hexact : v * unitScale = v * 2 ^ (scaleExponent - expFor v 1) * (1 * 2 ^ expFor v 1) := by
    rw [unitScale_eq, one_mul, mul_assoc, ← pow_add, Nat.sub_add_cancel (by omega)]
  have hden : 0 < 1 * 2 ^ expFor v 1 := Nat.mul_pos one_pos (Nat.two_pow_pos _)
  rw [f64, scaled_roundRat hlow hhigh (by decide), hexact, roundDiv_mul_right _ hden, one_mul]

/-- R88: `fmul` rounds the exact product once. -/
theorem scaled_fmul_near {m n : Nat} (hm : m < 2 ^ 53) (hn : n < 2 ^ 53) (hpos : 0 < m * n) :
    RoundsTo (scaled (fmul (f64 m) (f64 n))) (m * n * unitScale) := by
  have hUU : 0 < unitScale * unitScale := Nat.mul_pos unitScale_pos unitScale_pos
  have hnum : m * unitScale * (n * unitScale) * unitScale = m * n * unitScale * (unitScale * unitScale) := by ring
  have hquot : m * unitScale * (n * unitScale) * unitScale / (unitScale * unitScale) = m * n * unitScale := by
    rw [hnum, Nat.mul_div_cancel _ hUU]
  have hmn : m * n < 2 ^ (53 + 53) := by
    rw [pow_add]
    exact Nat.mul_lt_mul'' hm hn
  have hlow := le_mul_unitScale hpos
  have hhigh := mul_unitScale_lt hmn
  rw [← hquot] at hlow hhigh
  have hround := scaled_roundRat_near hUU hlow hhigh (by decide)
  rw [hnum] at hround
  rw [fmul, scaled_f64 hm, scaled_f64 hn]
  exact hround.of_mul_right hUU

/-- R88: `fdiv` by `f64 d` rounds the exact quotient once, if the quotient is in the normal range. -/
theorem scaled_fdiv_near {x : Binary64} {d k : Nat} (hd : d < 2 ^ 53) (hpos : 0 < d) (hlow : 2 ^ 53 * d ≤ scaled x)
    (hhigh : scaled x < 2 ^ k) (hk : k ≤ 2098) : RoundsTo (scaled (fdiv x (f64 d)) * d) (scaled x) := by
  have hquot : scaled x * unitScale / (d * unitScale) = scaled x / d := Nat.mul_div_mul_right _ _ unitScale_pos
  have hlow' := (Nat.le_div_iff_mul_le hpos).mpr hlow
  have hhigh' := (Nat.div_le_self _ d).trans_lt hhigh
  rw [← hquot] at hlow' hhigh'
  have hround := scaled_roundRat_near (Nat.mul_pos hpos unitScale_pos) hlow' hhigh' hk
  rw [← mul_assoc] at hround
  rw [fdiv, scaled_f64 hd]
  exact hround.of_mul_right unitScale_pos

/-! ### The quotient estimate (R90) -/

/-- Two roundings of a quotient below `2^52` move it by less than 1. -/
theorem two_roundings_lt {x y z w : Nat} (hy : RoundsTo y x) (hz : RoundsTo z y)
    (hsmall : x * (2 ^ 54 + 1) < w * 2 ^ 106) : z < x + w ∧ x < z + w := by
  obtain ⟨hyUp, hyDown⟩ := hy
  obtain ⟨hzUp, hzDown⟩ := hz
  omega

/-- The integer parts of two fractions less than 1 apart are at most 1 apart. -/
theorem div_le_succ_div {m n p u : Nat} (hp : 0 < p) (hu : 0 < u) (h : m * u < n * p + p * u) :
    m / p ≤ n / u + 1 := by
  have hn : n < (n / u + 1) * u := Nat.lt_div_mul_add hu |>.trans_eq (by ring)
  have hlt : m * u < (n / u + 2) * p * u := by
    calc m * u < n * p + p * u := h
      _ ≤ (n / u + 1) * u * p + p * u := by gcongr
      _ = (n / u + 2) * p * u := by ring
  exact Nat.le_of_lt_succ ((Nat.div_lt_iff_lt_mul hp).mpr (Nat.lt_of_mul_lt_mul_right hlt))

/-- R90 item 4: operands below `p < 2^52` have a product whose quotient by `p` two roundings move by less than 1. -/
theorem product_small {m n p : Nat} (hm : m < p) (hn : n < p) (hp : p < 2 ^ 52) :
    m * n * (2 ^ 54 + 1) < p * 2 ^ 106 := by
  have hn' : n * (2 ^ 54 + 1) ≤ 2 ^ 106 := by omega
  calc m * n * (2 ^ 54 + 1) = m * (n * (2 ^ 54 + 1)) := mul_assoc _ _ _
    _ ≤ m * 2 ^ 106 := Nat.mul_le_mul_left m hn'
    _ < p * 2 ^ 106 := Nat.mul_lt_mul_of_pos_right hm (Nat.two_pow_pos 106)

theorem le_unitScale : 2 ^ 106 ≤ unitScale := by
  rw [unitScale_eq]
  exact Nat.pow_le_pow_right (by decide) (by decide)

section Estimate

variable {m n p : Nat}

/-- The rounded quotient `FQ` of R89, from the two reduced operands and the modulus. -/
def quotientEstimate (m n p : Nat) : Binary64 := fdiv (fmul (f64 m) (f64 n)) (f64 p)

/-- R89: QI is the estimate, truncated. -/
theorem fpuMultiply_qi (a b p : Field) (h : Hidden) :
    (fpuMultiply a b p h).qi = trunc64 (quotientEstimate (canon a p).toNat (canon b p).toNat p.toNat) := rfl

/-- The estimate and the true quotient, both times the modulus and the scale, are less than 1 apart. -/
theorem quotientEstimate_near (hm : m < p) (hn : n < p) (hp : p < 2 ^ 52) (hpos : 0 < m * n) :
    scaled (quotientEstimate m n p) * p < m * n * unitScale + p * unitScale
      ∧ m * n * unitScale < scaled (quotientEstimate m n p) * p + p * unitScale := by
  have hprod := scaled_fmul_near (m := m) (n := n) (by omega) (by omega) hpos
  have hmn : 2 * (m * n) < 2 ^ (1 + 53 + 53) := by
    have hlt : m * n < 2 ^ 53 * 2 ^ 53 := Nat.mul_lt_mul'' (by omega) (by omega)
    omega
  have hlarge := le_unitScale
  have hunit : unitScale ≤ m * n * unitScale := Nat.le_mul_of_pos_left _ hpos
  have hlow : 2 ^ 53 * p ≤ scaled (fmul (f64 m) (f64 n)) := by
    obtain ⟨-, hdown⟩ := hprod
    omega
  have hhigh : scaled (fmul (f64 m) (f64 n)) < 2 ^ (1 + 53 + 53 + scaleExponent) := by
    obtain ⟨hup, -⟩ := hprod
    have hdouble := mul_unitScale_lt hmn
    rw [mul_assoc] at hdouble
    omega
  have hquot := scaled_fdiv_near (by omega) (by omega) hlow hhigh (by decide)
  refine two_roundings_lt hprod hquot ?_
  calc m * n * unitScale * (2 ^ 54 + 1) = m * n * (2 ^ 54 + 1) * unitScale := by ring
    _ < p * 2 ^ 106 * unitScale := Nat.mul_lt_mul_of_pos_right (product_small hm hn hp) unitScale_pos
    _ = p * unitScale * 2 ^ 106 := by ring

theorem quotientEstimate_of_zero (h : m * n = 0) : scaled (quotientEstimate m n p) = 0 := by
  have hprod : fmul (f64 m) (f64 n) = 0#64 := by
    obtain rfl | rfl := Nat.mul_eq_zero.mp h <;> simp [fmul, f64, roundRat_zero, scaled_zero]
  rw [quotientEstimate, hprod, fdiv, scaled_zero, roundRat_zero, scaled_zero]

/-- R90 item 4: the truncated estimate is within one of the true quotient. -/
theorem quotientEstimate_within_one (hm : m < p) (hn : n < p) (hp : p < 2 ^ 52) :
    m * n / p ≤ (trunc64 (quotientEstimate m n p)).toNat + 1
      ∧ (trunc64 (quotientEstimate m n p)).toNat ≤ m * n / p + 1 := by
  have hbound : m * n / p ≤ scaled (quotientEstimate m n p) / unitScale + 1
      ∧ scaled (quotientEstimate m n p) / unitScale ≤ m * n / p + 1 := by
    obtain hzero | hpos := Nat.eq_zero_or_pos (m * n)
    · rw [quotientEstimate_of_zero hzero, hzero, Nat.zero_div, Nat.zero_div]
      exact ⟨Nat.zero_le _, Nat.zero_le _⟩
    · obtain ⟨hup, hdown⟩ := quotientEstimate_near hm hn hp hpos
      have hp0 : 0 < p := by omega
      refine ⟨div_le_succ_div hp0 unitScale_pos hdown, div_le_succ_div unitScale_pos hp0 ?_⟩
      rw [mul_comm unitScale p]
      exact hup
  have hquot : m * n / p < 2 ^ 52 := by
    have hlt : m * n < p * 2 ^ 52 := Nat.mul_lt_mul'' hm (by omega)
    exact Nat.div_lt_of_lt_mul hlt
  rw [trunc64, BitVec.toNat_ofNat, Nat.mod_eq_of_lt (by omega)]
  exact hbound

end Estimate

/-! ### The recovery (R89) -/

/-- R89: with an estimate within one, the product less the biased quotient's multiple of `p` is the remainder plus at
most `2 p`, and does not wrap. -/
theorem toNat_recovered {m n qi p : Word} (hmn : m.toNat * n.toNat / p.toNat ≤ qi.toNat + 1)
    (hqi : qi.toNat ≤ m.toNat * n.toNat / p.toNat + 1) (hp : 0 < p.toNat) (hp' : p.toNat < 2 ^ 52) :
    (m * n - biasedQuotient qi * p).toNat % p.toNat = m.toNat * n.toNat % p.toNat := by
  obtain ⟨d, hd⟩ : ∃ d, m.toNat * n.toNat / p.toNat + 1 = qi.toNat + d := Nat.exists_eq_add_of_le hqi
  have hd' : d ≤ 2 := by omega
  have hrem := Nat.mod_lt (m.toNat * n.toNat) hp
  have hsplit : m.toNat * n.toNat + p.toNat = qi.toNat * p.toNat + (m.toNat * n.toNat % p.toNat + d * p.toNat) := by
    calc m.toNat * n.toNat + p.toNat
        = m.toNat * n.toNat % p.toNat + (m.toNat * n.toNat / p.toNat + 1) * p.toNat := by
          rw [Nat.add_mul, one_mul, ← add_assoc, Nat.mod_add_div']
      _ = qi.toNat * p.toNat + (m.toNat * n.toNat % p.toNat + d * p.toNat) := by
          rw [hd]
          ring
  have hword : m * n - biasedQuotient qi * p = BitVec.ofNat 64 (m.toNat * n.toNat % p.toNat + d * p.toNat) := by
    have hsum : m * n + p = qi * p + BitVec.ofNat 64 (m.toNat * n.toNat % p.toNat + d * p.toNat) := by
      have hcast := congrArg (BitVec.ofNat 64) hsplit
      simpa only [BitVec.ofNat_add, BitVec.ofNat_mul, BitVec.ofNat_toNat, BitVec.setWidth_eq] using hcast
    rw [biasedQuotient, sub_mul, BitVec.one_mul, sub_sub_eq_add_sub, hsum, add_sub_cancel_left]
  have hsmall : d * p.toNat ≤ 2 * p.toNat := Nat.mul_le_mul_right _ hd'
  rw [hword, BitVec.toNat_ofNat, Nat.mod_eq_of_lt (a := _ + _) (by omega), Nat.add_mul_mod_self_right, Nat.mod_mod]

/-! ### The statements -/

theorem mulmodFpu_eq_mulmod (a b : Field) (plo : BitVec 32) (h : Hidden) :
    mulmodFpu a b (modulus plo) h = mulmod a b (modulus plo) := by
  have hpos := modulus_pos plo
  obtain ⟨hlow, hhigh⟩ := quotientEstimate_within_one (canon_modulus_lt a plo) (canon_modulus_lt b plo)
    (modulus plo).isLt
  have hwide (v : Field) : (v.setWidth 64).toNat = v.toNat := BitVec.toNat_setWidth_of_le (by decide)
  have hrecovered := toNat_recovered (m := (canon a (modulus plo)).setWidth 64)
    (n := (canon b (modulus plo)).setWidth 64) (p := (modulus plo).setWidth 64) (by simpa only [hwide] using hlow)
    (by simpa only [hwide] using hhigh) (by rwa [hwide]) (by rw [hwide]; exact (modulus plo).isLt)
  simp only [hwide] at hrecovered
  apply BitVec.eq_of_toNat_eq
  rw [toNat_mulmod _ _ _ hpos]
  refine (toNat_mod64 _ _ hpos).trans (hrecovered.trans ?_)
  rw [toNat_canon_modulus, toNat_canon_modulus, ← Nat.mul_mod]

/-- Settles O50: the operands are reduced below P, and two roundings of their quotient move it by less than 1. -/
theorem quotientEstimateIsWithinOne : Obligations.QuotientEstimateIsWithinOne := by
  intro a b plo h f q
  rw [fpuMultiply_qi]
  exact quotientEstimate_within_one (canon_modulus_lt a plo) (canon_modulus_lt b plo) (modulus plo).isLt

/-- Settles O51: the recovery makes good an estimate within one, and the integer variant returns the same. -/
theorem fpuMultiplierIsExact : Obligations.FpuMultiplierIsExact := fun a b plo h =>
  ⟨mulmodFpu_eq_mulmod a b plo h, (mulmodFpu_eq_mulmod a b plo h).trans (mulmodInt_eq_mulmod a b plo h).symm⟩

end Sys2Proof.Machine

/-! PROOFS of the pipeline's statement (family `other`): a pass through either multiplier returns the residue of the
product and leaves the pipeline's registers, so each iteration of R92 is one step of the repeated squaring. -/

namespace Sys2Proof.Machine

/-! ### A pass through the multiplier (R86, R89, R92) -/

/-- The registers of the pipeline hold the same values in both. -/
structure SamePipe (h g : Hidden) : Prop where
  acc : g.acc = h.acc
  base : g.base = h.base
  esh : g.esh = h.esh
  i : g.i = h.i

theorem samePipe_intLoop (p : Field) (fuel : Nat) (h : Hidden) : SamePipe h (intLoop p fuel h) := by
  induction fuel generalizing h with
  | zero => exact ⟨rfl, rfl, rfl, rfl⟩
  | succ fuel ih =>
    rw [intLoop]
    split
    next => exact ⟨rfl, rfl, rfl, rfl⟩
    next =>
      obtain ⟨hacc, hbase, hesh, hi⟩ := ih (intIteration p h)
      exact ⟨hacc, hbase, hesh, hi⟩

theorem samePipe_multiply (v : Variant) (a b p : Field) (h : Hidden) : SamePipe h (multiply v a b p h) := by
  cases v with
  | int =>
    obtain ⟨hacc, hbase, hesh, hi⟩ :=
      samePipe_intLoop p 52 { h with ma := canon a p, mb := canon b p, mres := 0#52 }
    exact ⟨hacc, hbase, hesh, hi⟩
  | fpu => exact ⟨rfl, rfl, rfl, rfl⟩

/-- R91: either variant returns `mulmod`. -/
theorem multiplyResult_multiply (v : Variant) (a b : Field) (plo : BitVec 32) (h : Hidden) :
    multiplyResult v (modulus plo) (multiply v a b (modulus plo) h) = mulmod a b (modulus plo) := by
  cases v with
  | int => exact mulmodInt_eq_mulmod a b plo h
  | fpu => exact mulmodFpu_eq_mulmod a b plo h

/-! ### One iteration (R92) -/

section Iteration

variable (v : Variant) (plo : BitVec 32) (h : Hidden)

/-- The multiply stage: ACC takes the product when the exponent bit is 1, and nothing else of the pipeline moves. -/
def multiplyStage : Hidden :=
  if h.esh[0] then
    { multiply v h.acc h.base (modulus plo) h with
      acc := multiplyResult v (modulus plo) (multiply v h.acc h.base (modulus plo) h) }
  else h

theorem multiplyStage_fields :
    (multiplyStage v plo h).acc = (if h.esh[0] then mulmod h.acc h.base (modulus plo) else h.acc)
      ∧ (multiplyStage v plo h).base = h.base ∧ (multiplyStage v plo h).esh = h.esh
      ∧ (multiplyStage v plo h).i = h.i := by
  have hpass := samePipe_multiply v h.acc h.base (modulus plo) h
  rw [multiplyStage]
  split
  next => exact ⟨multiplyResult_multiply v _ _ plo h, hpass.base, hpass.esh, hpass.i⟩
  next => exact ⟨rfl, rfl, rfl, rfl⟩

/-- The square stage: BASE takes its square, the exponent is shifted and the iteration counted. -/
def squareStage : Hidden :=
  { multiply v h.base h.base (modulus plo) h with
    base := multiplyResult v (modulus plo) (multiply v h.base h.base (modulus plo) h)
    esh := (multiply v h.base h.base (modulus plo) h).esh >>> 1
    i := (multiply v h.base h.base (modulus plo) h).i + 1#6 }

theorem squareStage_fields :
    (squareStage v plo h).acc = h.acc ∧ (squareStage v plo h).base = mulmod h.base h.base (modulus plo)
      ∧ (squareStage v plo h).esh = h.esh >>> 1 ∧ (squareStage v plo h).i = h.i + 1#6 := by
  have hpass := samePipe_multiply v h.base h.base (modulus plo) h
  have hesh : (squareStage v plo h).esh = (multiply v h.base h.base (modulus plo) h).esh >>> 1 := rfl
  have hi : (squareStage v plo h).i = (multiply v h.base h.base (modulus plo) h).i + 1#6 := rfl
  exact ⟨hpass.acc, multiplyResult_multiply v _ _ plo h, by rw [hesh, hpass.esh], by rw [hi, hpass.i]⟩

theorem pipeIteration_eq : pipeIteration v (modulus plo) h = squareStage v plo (multiplyStage v plo h) := rfl

theorem pipeIteration_fields :
    (pipeIteration v (modulus plo) h).acc = (if h.esh[0] then mulmod h.acc h.base (modulus plo) else h.acc)
      ∧ (pipeIteration v (modulus plo) h).base = mulmod h.base h.base (modulus plo)
      ∧ (pipeIteration v (modulus plo) h).esh = h.esh >>> 1
      ∧ (pipeIteration v (modulus plo) h).i = h.i + 1#6 := by
  obtain ⟨hacc, hbase, hesh, hi⟩ := multiplyStage_fields v plo h
  obtain ⟨hacc', hbase', hesh', hi'⟩ := squareStage_fields v plo (multiplyStage v plo h)
  rw [pipeIteration_eq]
  exact ⟨hacc'.trans hacc, by rw [hbase', hbase], by rw [hesh', hesh], by rw [hi', hi]⟩

end Iteration

/-! ### The repeated squaring (R92, R93) -/

/-- R93: what the registers hold before iteration `I`: the bits of the exponent still to come, and the power of those
consumed. -/
structure PipeAt (a e p : Field) (I : Nat) (g : Hidden) : Prop where
  base : g.base.toNat = a.toNat ^ 2 ^ I % p.toNat
  acc : g.acc.toNat = a.toNat ^ (e.toNat % 2 ^ I) % p.toNat
  esh : g.esh.toNat = e.toNat / 2 ^ I
  i : g.i.toNat = I

theorem pipeAt_start (a e : Field) (plo : BitVec 32) (h : Hidden) :
    PipeAt a e (modulus plo) 0 (pipeStart a e (modulus plo) h) where
  base := by
    rw [pow_zero, pow_one]
    exact toNat_canon_modulus a plo
  acc := by
    rw [pow_zero, Nat.mod_one, pow_zero, Nat.mod_eq_of_lt (one_lt_modulus plo)]
    rfl
  esh := by
    rw [pow_zero, Nat.div_one]
    rfl
  i := rfl

theorem PipeAt.iteration {v : Variant} {a e : Field} {plo : BitVec 32} {I : Nat} {g : Hidden}
    (hg : PipeAt a e (modulus plo) I g) (hI : I < 52) :
    PipeAt a e (modulus plo) (I + 1) (pipeIteration v (modulus plo) g) := by
  have hpos := modulus_pos plo
  obtain ⟨hacc, hbase, hesh, hi⟩ := pipeIteration_fields v plo g
  have hbit : g.esh[0] = true ↔ e.toNat / 2 ^ I % 2 = 1 := by rw [getElem_zero_iff, hg.esh]
  refine ⟨?base, ?acc, ?esh, ?i⟩
  case base => rw [hbase, toNat_mulmod _ _ _ hpos, hg.base, ← Nat.mul_mod, ← pow_add, ← two_mul, ← pow_succ']
  case acc =>
    rw [hacc, Nat.mod_pow_succ]
    split
    next hone => rw [toNat_mulmod _ _ _ hpos, hg.acc, hg.base, ← Nat.mul_mod, ← pow_add, hbit.mp hone, mul_one]
    next hzero => rw [hg.acc, Nat.mod_two_ne_one.mp (mt hbit.mpr hzero), mul_zero, add_zero]
  case esh => rw [hesh, BitVec.toNat_ushiftRight, Nat.shiftRight_one, hg.esh, Nat.div_div_eq_div_mul, ← pow_succ]
  case i =>
    rw [hi, BitVec.toNat_add, hg.i, BitVec.toNat_one (by decide), Nat.mod_eq_of_lt (by omega)]

theorem pipeAt_pipeRun (v : Variant) (a e : Field) (plo : BitVec 32) (h : Hidden) {I : Nat} (hI : I ≤ 52) :
    PipeAt a e (modulus plo) I (pipeRun v (modulus plo) I (pipeStart a e (modulus plo) h)) := by
  induction I with
  | zero => exact pipeAt_start a e plo h
  | succ I ih => exact (ih (by omega)).iteration hI

/-! ### The statement -/

/-- Settles O52: the loop invariant, and at 52 iterations the whole of the exponent is consumed. -/
theorem pipelineComputesThePower : Obligations.PipelineComputesThePower := by
  intro v a e plo h
  have hrun {I : Nat} (hI : I ≤ 52) := pipeAt_pipeRun v a e plo h hI
  refine ⟨fun I hI => ⟨(hrun hI).base, (hrun hI).acc, (hrun hI).i⟩, BitVec.eq_of_toNat_eq ?_⟩
  refine (hrun le_rfl).acc.trans ?_
  rw [toNat_modpow _ _ _ (modulus_pos plo), Nat.mod_eq_of_lt e.isLt]

end Sys2Proof.Machine

/-! PROOFS of the round trip's statements (family `other`): as far back as the differences are below P the forward walk
passes back through the states of the backward walk (R141). -/

namespace Sys2Proof.Machine

/-! ### The forward walk against the backward walk (R140, R141) -/

/-- R140 item 3 under the hypothesis of R7, which is on the residue modulo 6. -/
theorem fwd_bwd_of_modulusOk {plo : BitVec 32} (hp : modulusOk (modulus plo)) (x : Field) (k : Word) :
    fwd (bwd x k (exponentOf (modulus plo)) (modulus plo)) k (modulus plo)
      = add52 (canon (sub52 x k) (modulus plo)) k := by
  obtain ⟨hprime, h6⟩ := hp
  exact fwd_bwd hprime (by omega) x k

section RoundTrip

variable {plo : BitVec 32} {k : Keys} {n : Nat} {x : Field}

/-- The key of forward round `r` is that of the backward round it undoes. -/
theorem forwAfter_succ_eq {p e : Field} {r : Nat} {y : Field} (hr : r < n)
    (h : forwAfter k p r y = backAfter k e p n (n - r) x) :
    forwAfter k p (r + 1) y
      = fwd (bwd (backAfter k e p n (n - 1 - r) x) (roundKey k r) e p) (roundKey k r) p := by
  have hback : n - r = n - 1 - r + 1 := by omega
  have hkey : n - 1 - (n - 1 - r) = r := by omega
  rw [forwAfter_succ, h, hback, backAfter_succ, hkey]

/-- R141: the forward walk undoes the backward rounds from the last one down to round `m`, if their differences are
below P. -/
theorem forwAfter_backAfter (hp : modulusOk (modulus plo)) {m : Nat}
    (hbelow : ∀ r, m ≤ r → r < n → differenceBelow k (exponentOf (modulus plo)) (modulus plo) n r x) {r : Nat}
    (hr : m + r ≤ n) :
    forwAfter k (modulus plo) r (backAfter k (exponentOf (modulus plo)) (modulus plo) n n x)
      = backAfter k (exponentOf (modulus plo)) (modulus plo) n (n - r) x := by
  induction r with
  | zero => rfl
  | succ r ih =>
    have hdiff := hbelow (n - 1 - r) (by omega) (by omega)
    rw [differenceBelow, show n - 1 - (n - 1 - r) = r by omega] at hdiff
    rw [forwAfter_succ_eq (by omega) (ih (by omega)), fwd_bwd_of_modulusOk hp, canon_of_lt hdiff,
      add52_sub52, show n - (r + 1) = n - 1 - r by omega]

/-- R140 item 3: a round whose difference is not below P comes back off by P. -/
theorem forwAfter_backAfter_of_offender (hp : modulusOk (modulus plo)) (hn : 0 < n)
    (hzero : ¬ differenceBelow k (exponentOf (modulus plo)) (modulus plo) n 0 x)
    (hbelow : ∀ r, 1 ≤ r → r < n → differenceBelow k (exponentOf (modulus plo)) (modulus plo) n r x) :
    forwAfter k (modulus plo) n (backAfter k (exponentOf (modulus plo)) (modulus plo) n n x) = x - modulus plo := by
  obtain ⟨r, rfl⟩ := Nat.exists_eq_add_one_of_ne_zero hn.ne'
  have hback := forwAfter_backAfter hp hbelow (r := r) (by omega)
  rw [differenceBelow, backAfter_zero, Nat.sub_zero, Nat.add_sub_cancel] at hzero
  rw [forwAfter_succ_eq (by omega) hback, Nat.add_sub_cancel, Nat.sub_self, backAfter_zero,
    fwd_bwd_of_modulusOk hp, canon_of_le (BitVec.not_lt.mp hzero), add52_sub52_sub]

end RoundTrip

/-! ### The comparison at the end (R138) -/

theorem verifyEq_seedOf (k : Keys) {p : Field} (hp : 0 < p.toNat) : verifyEq (seedOf k p) k[33] p = true := by
  rw [verifyEq_iff _ _ hp, toNat_seedOf k hp, Nat.mod_mod]

/-- A value below P, less P, has another residue: it wraps to a value at most `2^32` above it, less than P. -/
theorem toNat_sub_modulus_mod_ne {x : Field} {plo : BitVec 32} (hx : x < modulus plo) :
    (x - modulus plo).toNat % (modulus plo).toNat ≠ x.toNat := by
  have hlower := modulus_lower plo
  have hupper := (modulus plo).isLt
  have hx' : x.toNat < (modulus plo).toNat := hx
  have hwrap : (x - modulus plo).toNat = x.toNat + (2 ^ 52 - (modulus plo).toNat) := by
    rw [BitVec.toNat_sub_of_lt hx]
    omega
  rw [hwrap]
  obtain hlt | hle := lt_or_ge (x.toNat + (2 ^ 52 - (modulus plo).toNat)) (modulus plo).toNat
  · rw [Nat.mod_eq_of_lt hlt]
    omega
  · rw [Nat.mod_eq_sub_mod hle, Nat.mod_eq_of_lt (by omega)]
    omega

/-! ### The statements -/

/-- Settles O54: no round is an offender, so the walk comes back to the seed. -/
theorem roundTripUnderTheSideCondition : Obligations.RoundTripUnderTheSideCondition := by
  intro enc table ch n k p e hp hbelow
  have hwalk {r : Nat} (hr : r ≤ n) :
      forwAfter k p r (delayFn enc table ch n) = backAfter k e p n (n - r) (seedOf k p) :=
    forwAfter_backAfter hp (m := 0) (fun r _ => hbelow r) (by omega)
  refine ⟨fun r hr => hwalk hr, ?_⟩
  have hend : verifyWalk enc table ch n (delayFn enc table ch n) = seedOf k p := by
    refine (hwalk le_rfl).trans ?_
    rw [Nat.sub_self, backAfter_zero]
  rw [verifyFn, hend]
  exact verifyEq_seedOf k (modulus_pos _)

/-- Settles O55: the walk comes back to the seed less P, which has another residue. -/
theorem roundZeroOffenderIsRejected : Obligations.RoundZeroOffenderIsRejected := by
  intro enc table ch n k p e hp hn hzero hbelow
  have hpos : 0 < p.toNat := modulus_pos _
  have hend : verifyWalk enc table ch n (delayFn enc table ch n) = seedOf k p - p :=
    forwAfter_backAfter_of_offender hp hn hzero hbelow
  rw [verifyFn, hend, Bool.eq_false_iff]
  intro heq
  have hres := (verifyEq_iff _ _ hpos).mp heq
  rw [← toNat_seedOf k hpos] at hres
  exact toNat_sub_modulus_mod_ne (seedOf_lt k hpos) hres

end Sys2Proof.Machine
